-- ==== Sys2Proof/Word.lean ====
section
/-! DEFINITION. The word types of the block (00_scope.md R9: bit 0 is the least significant bit, every value is unsigned). -/

namespace Sys2Proof

/-- A byte of the serial bus, of a ROM or of display memory. -/
abbrev Byte := BitVec 8

/-- One stimulus word `STIM` (30_encoding.md R70). -/
abbrev StimWord := BitVec 19

/-- The value of the `PHASE` register (30_encoding.md R74). -/
abbrev PhaseCode := BitVec 4

/-- One serial frame: bit 8 is the `DC` level, bits 7:0 the byte (30_encoding.md R76). -/
abbrev Frame := BitVec 9

/-- A character code the glyph ROM has an entry for, 0x00 to 0x7F (20_memory.md R51). -/
abbrev CharCode := BitVec 7

/-- A page of display memory, 0 to 7 (20_memory.md R52). -/
abbrev Page := BitVec 3

/-- A column of display memory, 0 to 127 (20_memory.md R52). -/
abbrev Column := BitVec 7

/-- A 12-bit analog code (10_state.md R33, R34, R41). -/
abbrev AnalogCode := BitVec 12

/-- A 2-bit diagnostic code (60_exceptions.md R201). -/
abbrev DiagCode := BitVec 2

end Sys2Proof
end

