-- ==== Sys2Proof/Syntax.lean ====
section
/-! DEFINITION. The 24 operations of the block (30_encoding.md R78), one constructor per row of spec/opcode_table.json. -/

namespace Sys2Proof

/-- An operation, with the operands its encoding carries. -/
inductive Instr where
  /-- `TICK`: one tick of the capture clock (41_capture.md R101). -/
  | tick
  /-- `OVF`: the capture counter wrapped; performed inside `TICK` (41_capture.md R106). -/
  | ovf
  /-- `FEDGE`: one rising edge on the frequency input (41_capture.md R104). -/
  | fedge
  /-- `MSTICK`: one tick of the 1 kHz clock (42_debounce.md R120). -/
  | mstick
  /-- `BEDGE`: one rising edge on the button input (42_debounce.md R121). -/
  | bedge
  /-- `SEND`: try to send the head frame, with `STIM.BUS_RDY` (43_display.md R134). -/
  | send (busRdy : Bool)
  /-- `PH_INIT` (44_sampling.md R163). -/
  | phInit
  /-- `PH_CLEAR` (44_sampling.md R164). -/
  | phClear
  /-- `PH_START` (44_sampling.md R165). -/
  | phStart
  /-- `PH_WAIT`, with `STIM.ADC_RDY` and `STIM.ADC_DATA` (44_sampling.md R166). -/
  | phWait (adcRdy : Bool) (adcData : AnalogCode)
  /-- `PH_DAC` (44_sampling.md R167). -/
  | phDac
  /-- `PH_COMPUTE` (44_sampling.md R168). -/
  | phCompute
  /-- `PH_MASK` (44_sampling.md R170). -/
  | phMask
  /-- `PH_RENDER_R` (44_sampling.md R171). -/
  | phRenderR
  /-- `PH_RENDER_F` (44_sampling.md R172). -/
  | phRenderF
  /-- `PH_UNMASK` (44_sampling.md R173). -/
  | phUnmask
  /-- `PH_DELAY_ARM` (44_sampling.md R174). -/
  | phDelayArm
  /-- `PH_DELAY_WAIT` (44_sampling.md R175). -/
  | phDelayWait
  /-- `PH_STALLED` (44_sampling.md R176). -/
  | phStalled
  /-- `INIT_CMD`: one of the first 29 frames, an opaque command byte (43_display.md R140, 20_memory.md R60). -/
  | initCmd (byte : Byte)
  /-- `PAGE_SEL`: select a page (43_display.md R135, 20_memory.md R61). -/
  | pageSel (page : Page)
  /-- `COL_LO`: low nibble of the device column (43_display.md R136, 20_memory.md R61). -/
  | colLo (nibble : BitVec 4)
  /-- `COL_HI`: high nibble of the device column (43_display.md R136, 20_memory.md R61). -/
  | colHi (nibble : BitVec 4)
  /-- `DATA`: one column of pixels (43_display.md R132, 20_memory.md R62). -/
  | data (byte : Byte)
  deriving DecidableEq, Repr

end Sys2Proof
end

