-- ==== Sys2Proof/WellFormed.lean ====
section
/-! DEFINITION. Well-formedness of operations and of the values that select them. Operand widths are carried by the types of `Instr`;
what is left to check is which operation has a word of its own, which `PHASE` codes are legal and which frames have a meaning. -/

namespace Sys2Proof

/-- An operation that some word selects: every one but `OVF`, whose encoding is "none of its own" (41_capture.md R106). -/
def Instr.wellFormed : Instr → Bool
  | .tick => true
  | .ovf => false
  | .fedge => true
  | .mstick => true
  | .bedge => true
  | .send _ => true
  | .phInit => true
  | .phClear => true
  | .phStart => true
  | .phWait _ _ => true
  | .phDac => true
  | .phCompute => true
  | .phMask => true
  | .phRenderR => true
  | .phRenderF => true
  | .phUnmask => true
  | .phDelayArm => true
  | .phDelayWait => true
  | .phStalled => true
  | .initCmd _ => true
  | .pageSel _ => true
  | .colLo _ => true
  | .colHi _ => true
  | .data _ => true

/-- A legal `PHASE` value: 0 to 12; 13 to 15 are reserved (30_encoding.md R84). -/
def legalPhase (code : PhaseCode) : Bool := decide (code.toNat ≤ 12)

/-- A frame of R77 other than `INIT_CMD`: a data frame, or one of the three cursor commands (30_encoding.md R77, R85). -/
def legalFrame (f : Frame) : Bool :=
  (f &&& 0x100#9 == 0x100#9) || (f &&& 0x1F8#9 == 0x0B0#9) || (f &&& 0x1F0#9 == 0x000#9) || (f &&& 0x1F0#9 == 0x010#9)

end Sys2Proof
end

