-- ==== Sys2Proof/Decode.lean ====
section
/-! DEFINITION. Decoding of the three formats STIM, PH and FR (30_encoding.md), then the encoder and the table's numbering.
A stimulus word selects a SEQUENCE of operations (R71); the foreground operation depends on `PHASE` and on whether `TXQ` is empty (R73);
a command frame's meaning depends on its position, before or after the 29 init frames (R82). -/

namespace Sys2Proof

/-! ### Fields of the stimulus word (R70) -/

def StimWord.tick (w : StimWord) : Bool := w[0]
def StimWord.fedge (w : StimWord) : Bool := w[1]
def StimWord.mstick (w : StimWord) : Bool := w[2]
def StimWord.bedge (w : StimWord) : Bool := w[3]
def StimWord.fg (w : StimWord) : Bool := w[4]
def StimWord.adcRdy (w : StimWord) : Bool := w[5]
def StimWord.busRdy (w : StimWord) : Bool := w[6]
def StimWord.adcData (w : StimWord) : AnalogCode := w.extractLsb' 7 12

/-! ### Fields of the frame (R76) -/

def Frame.isData (f : Frame) : Bool := f[8]
def Frame.byte (f : Frame) : Byte := f.extractLsb' 0 8

/-! ### The codes of the phases (R74) -/

@[simp] abbrev phInitCode : PhaseCode := 0#4
@[simp] abbrev phClearCode : PhaseCode := 1#4
@[simp] abbrev phStartCode : PhaseCode := 2#4
@[simp] abbrev phWaitCode : PhaseCode := 3#4
@[simp] abbrev phDacCode : PhaseCode := 4#4
@[simp] abbrev phComputeCode : PhaseCode := 5#4
@[simp] abbrev phMaskCode : PhaseCode := 6#4
@[simp] abbrev phRenderRCode : PhaseCode := 7#4
@[simp] abbrev phRenderFCode : PhaseCode := 8#4
@[simp] abbrev phUnmaskCode : PhaseCode := 9#4
@[simp] abbrev phDelayArmCode : PhaseCode := 10#4
@[simp] abbrev phDelayWaitCode : PhaseCode := 11#4
@[simp] abbrev phStalledCode : PhaseCode := 12#4

/-- Why nothing is decoded. -/
inductive DecodeError where
  /-- `PHASE` 13, 14 or 15 (30_encoding.md R84). -/
  | reservedPhase (code : PhaseCode)
  /-- After the init list, a command byte of none of the three patterns (30_encoding.md R85, 20_memory.md R63). -/
  | unknownCommand (byte : Byte)
  deriving DecidableEq, Repr

/-- The event operations a stimulus word selects, in the order they are performed (R71, R72). -/
def decodeEvents (w : StimWord) : List Instr :=
  (if w.tick then [.tick] else []) ++ (if w.fedge then [.fedge] else []) ++
    (if w.mstick then [.mstick] else []) ++ (if w.bedge then [.bedge] else [])

/-- The phase operation of a `PHASE` code (R74); `PH_WAIT` takes its operands from the stimulus word. -/
def decodePhase (code : PhaseCode) (w : StimWord) : Except DecodeError Instr :=
  if code = phInitCode then .ok .phInit
  else if code = phClearCode then .ok .phClear
  else if code = phStartCode then .ok .phStart
  else if code = phWaitCode then .ok (.phWait w.adcRdy w.adcData)
  else if code = phDacCode then .ok .phDac
  else if code = phComputeCode then .ok .phCompute
  else if code = phMaskCode then .ok .phMask
  else if code = phRenderRCode then .ok .phRenderR
  else if code = phRenderFCode then .ok .phRenderF
  else if code = phUnmaskCode then .ok .phUnmask
  else if code = phDelayArmCode then .ok .phDelayArm
  else if code = phDelayWaitCode then .ok .phDelayWait
  else if code = phStalledCode then .ok .phStalled
  else .error (.reservedPhase code)

/-- The operation of one foreground step: nothing when stalled, else `SEND` while frames are queued, else the phase's (R73). At a reserved
`PHASE` there is none, whatever is queued (R84). -/
def decodeForeground (code : PhaseCode) (queued : Bool) (w : StimWord) : Except DecodeError Instr :=
  if !legalPhase code then .error (.reservedPhase code)
  else if code = phStalledCode then .ok .phStalled
  else if queued then .ok (.send w.busRdy)
  else decodePhase code w

/-- The operation a frame is: `DATA` by its `DC` bit; a command is an `INIT_CMD` while the init list lasts, and is decoded by the
match and mask of R77 after it (R82). -/
def decodeFrame (initDone : Bool) (f : Frame) : Except DecodeError Instr :=
  if f.isData then .ok (.data f.byte)
  else if !initDone then .ok (.initCmd f.byte)
  else if f &&& 0x1F8#9 = 0x0B0#9 then .ok (.pageSel (f.extractLsb' 0 3))
  else if f &&& 0x1F0#9 = 0x000#9 then .ok (.colLo (f.extractLsb' 0 4))
  else if f &&& 0x1F0#9 = 0x010#9 then .ok (.colHi (f.extractLsb' 0 4))
  else .error (.unknownCommand f.byte)

/-- What selects operations, with the context the selection depends on. -/
inductive OpWord where
  /-- The strobe bits of a stimulus word. -/
  | strobes (w : StimWord)
  /-- The foreground step of a stimulus word: `PHASE`, whether `TXQ` holds a frame, and the word. -/
  | foreground (code : PhaseCode) (queued : Bool) (w : StimWord)
  /-- A frame, and whether the 29 init frames have passed. -/
  | frame (initDone : Bool) (f : Frame)
  deriving DecidableEq, Repr

/-- The operations a word selects, in the order they are performed; total on every word. -/
def decode : OpWord → Except DecodeError (List Instr)
  | .strobes w => .ok (decodeEvents w)
  | .foreground code queued w => (decodeForeground code queued w).map fun i => [i]
  | .frame initDone f => (decodeFrame initDone f).map fun i => [i]

/-! ### The encoder -/

/-- The command frame `C(b)`, `DC = 0` (R76). -/
def cmdFrame (b : Byte) : Frame := b.setWidth 9

/-- The data frame `D(b)`, `DC = 1` (R76). -/
def dataFrame (b : Byte) : Frame := 0x100#9 ||| b.setWidth 9

/-- A bit of a stimulus word, at its place. -/
def stimBit (place : Nat) (b : Bool) : StimWord := if b then 1#19 <<< place else 0#19

/-- The stimulus word with the given fields (R70). -/
def stimWord (tick fedge mstick bedge fg adcRdy busRdy : Bool) (adcData : AnalogCode) : StimWord :=
  stimBit 0 tick ||| stimBit 1 fedge ||| stimBit 2 mstick ||| stimBit 3 bedge ||| stimBit 4 fg ||| stimBit 5 adcRdy |||
    stimBit 6 busRdy ||| (adcData.setWidth 19 <<< 7)

/-- The stimulus word of one foreground step without strobes (R86 `fg`). -/
def fgWord (adcRdy busRdy : Bool) (adcData : AnalogCode) : StimWord := stimWord false false false false true adcRdy busRdy adcData

/-- The word that selects a well-formed operation; `OVF` has none (R72). `SEND` is shown at `PH_CLEAR`, one of the phases it can run in. -/
def encode : Instr → Option OpWord
  | .tick => some (.strobes 0x00001#19)
  | .ovf => none
  | .fedge => some (.strobes 0x00002#19)
  | .mstick => some (.strobes 0x00004#19)
  | .bedge => some (.strobes 0x00008#19)
  | .send busRdy => some (.foreground phClearCode true (fgWord false busRdy 0#12))
  | .phInit => some (.foreground phInitCode false (fgWord false false 0#12))
  | .phClear => some (.foreground phClearCode false (fgWord false false 0#12))
  | .phStart => some (.foreground phStartCode false (fgWord false false 0#12))
  | .phWait adcRdy adcData => some (.foreground phWaitCode false (fgWord adcRdy false adcData))
  | .phDac => some (.foreground phDacCode false (fgWord false false 0#12))
  | .phCompute => some (.foreground phComputeCode false (fgWord false false 0#12))
  | .phMask => some (.foreground phMaskCode false (fgWord false false 0#12))
  | .phRenderR => some (.foreground phRenderRCode false (fgWord false false 0#12))
  | .phRenderF => some (.foreground phRenderFCode false (fgWord false false 0#12))
  | .phUnmask => some (.foreground phUnmaskCode false (fgWord false false 0#12))
  | .phDelayArm => some (.foreground phDelayArmCode false (fgWord false false 0#12))
  | .phDelayWait => some (.foreground phDelayWaitCode false (fgWord false false 0#12))
  | .phStalled => some (.foreground phStalledCode false (fgWord false false 0#12))
  | .initCmd byte => some (.frame false (cmdFrame byte))
  | .pageSel page => some (.frame true (0x0B0#9 ||| page.setWidth 9))
  | .colLo nibble => some (.frame true (0x000#9 ||| nibble.setWidth 9))
  | .colHi nibble => some (.frame true (0x010#9 ||| nibble.setWidth 9))
  | .data byte => some (.frame true (dataFrame byte))

/-! ### The numbering of spec/opcode_table.json (assumption log 13) -/

/-- The row a stimulus word on its own stands for: the first operation it selects; `FG` alone is the row `SEND`. -/
def decodeStimRow (w : StimWord) : Option Instr :=
  match decodeEvents w with
  | i :: _ => some i
  | [] => if w.fg then some (.send w.busRdy) else none

/-- The row a frame on its own, without a position, stands for: a cursor command or `DATA` by its bits, any other command an `INIT_CMD`. -/
def decodeFrameRow (f : Frame) : Option Instr :=
  match decodeFrame true f with
  | .ok i => some i
  | .error _ => (decodeFrame false f).toOption

/-- The operation read from an instruction word of the table: 3 bytes hold a STIM word, 1 byte a PH code, 2 bytes a frame.
A word with a bit set above its format's width is refused. -/
def decodeTableWord (nbits w : Nat) : Option Instr :=
  if nbits ≤ 8 then
    if w < 16 then (decodePhase (BitVec.ofNat 4 w) (fgWord false false 0#12)).toOption else none
  else if nbits ≤ 16 then
    if w < 512 then decodeFrameRow (BitVec.ofNat 9 w) else none
  else if nbits ≤ 24 then
    if w < 524288 then decodeStimRow (BitVec.ofNat 19 w) else none
  else none

end Sys2Proof
end

