-- ==== Sys2Proof/Config.lean ====
section
/-! DEFINITION. The configuration of the block (00_scope.md R5): the parameters a model takes as arguments, their defaults, and
the free values, which the spec leaves open and no proof can evaluate. -/

namespace Sys2Proof

/-- `F_TICK`, ticks of the capture clock per second, under the constraint of 00_scope.md R5: 1 <= F_TICK <= 2^32 - 2.
The bounds are carried by the type, so a rate outside them cannot be given to the model (93_implementation_defined.md U14). -/
structure TickRate where
  hertz : Nat
  pos : 1 ≤ hertz
  fits : hertz ≤ 4294967294
  deriving DecidableEq, Repr

/-- `MASKED_EDGE`: what a frequency edge does while `EDGE_MASK = 1` (00_scope.md R5, 41_capture.md R104). -/
inductive MaskedEdge where
  | latch
  | drop
  deriving DecidableEq, Repr

/-- `WAIT_LIMIT`: a positive number of unsuccessful polls, or infinity (00_scope.md R5, 93_implementation_defined.md U10). -/
inductive WaitLimit where
  | infinity
  | polls (n : Nat) (pos : 1 ≤ n)
  deriving DecidableEq, Repr

/-- The open parameters of 00_scope.md R5, as plain data (assumption log 3).
`ohmsTable` says where `OHMS_FN` differs from its default (log 4).
`initSeq` and `glyph` list the bytes of the two ROMs that are given, in address order from 0; a byte they do not list is a free value (log 5). -/
structure Params where
  fTick : TickRate
  ohmsTable : List (AnalogCode × BitVec 32)
  colOrigin : BitVec 7
  initSeq : List Byte
  glyph : List Byte
  pageR : Byte
  pageF : Byte
  maskedEdge : MaskedEdge
  waitLimit : WaitLimit
  deriving DecidableEq, Repr

/-- The defaults of 00_scope.md R5; `INIT_SEQ` and `GLYPH` have none, so no byte of them is listed. -/
def Params.default : Params where
  fTick := ⟨48000000, by decide, by decide⟩
  ohmsTable := []
  colOrigin := 0#7
  initSeq := []
  glyph := []
  pageR := 0#8
  pageF := 1#8
  maskedEdge := .latch
  waitLimit := .infinity

/-- FREE VALUE (log 5): byte `i` of the init ROM where the parameters list none (20_memory.md R53: "the list is an open parameter with no default"). -/
opaque Config.initByte : Nat → Byte

/-- FREE VALUE (log 5): the byte at an address of the glyph ROM where the parameters list none (20_memory.md R51). -/
opaque Config.glyphByte : Nat → Byte

/-- FREE VALUE (log 1): the stimulus word the environment gives in its n-th unlisted step (00_scope.md R8: "under no law"). -/
opaque Config.envStimulus : Nat → StimWord

/-- FREE VALUE (log 8): `DEV_PAGE` at the n-th display power-on (20_memory.md R59: "unspecified values: a model draws them freely"). -/
opaque Config.devPagePowerOn : Nat → Page

/-- FREE VALUE (log 8): `DEV_COL` at the n-th display power-on (20_memory.md R59). -/
opaque Config.devColPowerOn : Nat → Byte

/-- FREE VALUE (log 9): the byte at an address of display memory at the n-th display power-on (20_memory.md R59). -/
opaque Config.fbPowerOn : Nat → Nat → Byte

end Sys2Proof
end

