-- ==== Sys2Proof/Machine/State.lean ====
section
/-! DEFINITION. The state of the block and of the display device (10_state.md R20, 20_memory.md R59), with the output traces (00_scope.md R11),
the reasons a step can stop, and the state after reset (70_reset_and_hazards.md R231). -/

namespace Sys2Proof.Machine

/-- No operation stops the block: every exception emits a diagnostic and goes on (60_exceptions.md R200, R202, R203). Nobody raises a fault. -/
inductive Fault where
  deriving DecidableEq, Repr

/-- Why the model has no step. Every one is SAFE: a claim that needs the case is unprovable. -/
inductive Refusal where
  /-- An operation without a meaning yet, raised in exec's arm. -/
  | notModelled (mnemonic : String)
  /-- A foreground step at `PHASE` 13, 14 or 15, raised by the step (30_encoding.md R84 "refuses a foreground step at such a value"). -/
  | reservedPhase (code : PhaseCode)
  /-- A data frame before the 29 init frames, raised by the device (20_memory.md R60, R63). -/
  | dataBeforeInit
  /-- After the init frames, a command that is none of the three patterns, raised by the device (20_memory.md R61, R63). -/
  | unknownCommand (byte : Byte)
  /-- A data frame whose column is outside 0 to 127, raised by the device (20_memory.md R62, R63). -/
  | dataOutsideColumns
  /-- `SEND` with no frame queued, raised by `SEND` (43_display.md R134 needs `TXQ != []`; assumption log 11). -/
  | sendWithoutFrame
  /-- A driver operation outside its operand range, raised by the driver (43_display.md R138; 93_implementation_defined.md U17, U19). -/
  | operandOutOfRange
  deriving DecidableEq, Repr

/-- The display device (20_memory.md R59). `fb` lists the bytes written since power-on: address 128 * page + column, addresses rising;
a byte that is not listed still holds the free value of this power-on (`Device.pixelColumn`; assumption log 9). -/
structure Device where
  /-- The number of power-ons before this one, the model's own: it tells this power-on's free values from another's (log 8, log 9). -/
  powerOns : Nat
  /-- `DEV_INIT`. -/
  initCount : Nat
  /-- `DEV_PAGE`. -/
  page : Page
  /-- `DEV_COL`, with `COL_ORIGIN` in it. -/
  col : Byte
  /-- `FB`. -/
  fb : List Host.Cell
  deriving DecidableEq, Repr

/-- One step's input from outside: `RST` held, or a stimulus word (10_state.md R46, 30_encoding.md R70; assumption log 1, 2). -/
inductive Input where
  | rst
  | stim (w : StimWord)
  deriving DecidableEq, Repr

/-- The whole state. The flags are `true` for 1 (30_encoding.md R75). -/
structure State where
  /-- The open parameters; no operation writes them (log 3). -/
  params : Params
  /-- `ARMED`: false Idle, true Armed. -/
  armed : Bool
  /-- `CNT`. -/
  cnt : BitVec 32
  /-- `CNT_RUN`. -/
  cntRun : Bool
  /-- `START_TICKS`. -/
  startTicks : BitVec 32
  /-- `HZ`. -/
  hz : BitVec 32
  /-- `EDGE_MASK`. -/
  edgeMask : Bool
  /-- `EDGE_PEND`. -/
  edgePend : Bool
  /-- `MS`. -/
  ms : BitVec 16
  /-- `LAST_ACC`. -/
  lastAcc : BitVec 16
  /-- `PHASE`. -/
  phase : PhaseCode
  /-- `TXQ`, head first. -/
  txq : List Frame
  /-- `SAMPLE`. -/
  sample : AnalogCode
  /-- `DAC_DATA`. -/
  dacData : AnalogCode
  /-- `OHMS`. -/
  ohms : BitVec 32
  /-- `DELAY_T0`. -/
  delayT0 : BitVec 16
  /-- `WAIT_CNT`. -/
  waitCnt : Nat
  /-- `CS_N`. -/
  csN : Bool
  /-- `DC`. -/
  dc : Bool
  /-- The display device. -/
  dev : Device
  /-- Frames sent on the serial bus and not yet consumed by the device, oldest first (log 6). -/
  wire : List Frame
  /-- `bus_trace`, oldest first, as every trace. -/
  busTrace : List Frame
  /-- `diag_trace`. -/
  diagTrace : List DiagCode
  /-- `btn_trace`: the value of `MS` at each accepted button edge (log 16). -/
  btnTrace : List (BitVec 16)
  /-- `dac_trace`. -/
  dacTrace : List AnalogCode
  /-- `adc_trace`: one entry per conversion start (log 16). -/
  adcTrace : List Unit
  /-- What the outside world will give in the next steps, the next first (log 1). -/
  inputs : List Input
  /-- How many inputs the environment has chosen freely so far (log 1). -/
  envStep : Nat
  deriving DecidableEq, Repr

/-- The device at its n-th power-on (20_memory.md R59): no init frame consumed, `DEV_PAGE`, `DEV_COL` and every byte of `FB` drawn freely
(log 8, log 9). -/
def Device.powerOn (n : Nat) : Device where
  powerOns := n
  initCount := 0
  page := Config.devPagePowerOn n
  col := Config.devColPowerOn n
  fb := []

/-- The state right after reset, with the given parameters (70_reset_and_hazards.md R230, R231). -/
def State.resetWith (p : Params) : State where
  params := p
  armed := false
  cnt := 0#32
  cntRun := false
  startTicks := 0#32
  hz := 0#32
  edgeMask := false
  edgePend := false
  ms := 0#16
  lastAcc := 0#16
  phase := 0#4
  txq := []
  sample := 0#12
  dacData := 0#12
  ohms := 0#32
  delayT0 := 0#16
  waitCnt := 0
  csN := true
  dc := true
  dev := Device.powerOn 0
  wire := []
  busTrace := []
  diagTrace := []
  btnTrace := []
  dacTrace := []
  adcTrace := []
  inputs := []
  envStep := 0

/-- The state right after reset, with the default parameters. -/
def State.reset : State := State.resetWith Params.default

end Sys2Proof.Machine
end

