-- ==== Sys2Proof/Machine/Operands.lean ====
section
/-! DEFINITION. Operands: the constants of 00_scope.md R5, the arithmetic of the rules (all unsigned, R9), the ROM reads, and how a number
becomes text. -/

namespace Sys2Proof.Machine

/-! ### Fixed parameters (00_scope.md R5) -/

@[simp] abbrev debounceWindow : Nat := 50
@[simp] abbrev refreshDelayMs : Nat := 100
@[simp] abbrev adcMax : Nat := 4095
@[simp] abbrev rScale : Nat := 5000
@[simp] abbrev initLen : Nat := 29
@[simp] abbrev dispPages : Nat := 8
@[simp] abbrev dispCols : Nat := 128
@[simp] abbrev glyphW : Nat := 8
@[simp] abbrev lastStartCol : Nat := 120
@[simp] abbrev textCol0 : Nat := 0

/-! ### Counters -/

/-- `T = (CNT - START_TICKS) mod 2^32` (41_capture.md R103). -/
def elapsed (cnt startTicks : BitVec 32) : BitVec 32 := cnt - startTicks

/-- `(F_TICK / T + 1) mod 2^32`, integer division (41_capture.md R105). -/
def frequencyReading (f : TickRate) (t : BitVec 32) : BitVec 32 := BitVec.ofNat 32 (f.hertz / t.toNat + 1)

/-- `wsub16(a, b) = (a - b) mod 2^16` (00_scope.md R10, 42_debounce.md R122). -/
def wsub16 (a b : BitVec 16) : BitVec 16 := a - b

/-- The default `OHMS_FN`: `floor(code * 5000 / 4095)` (44_sampling.md R168). -/
def ohmsDefault (code : AnalogCode) : BitVec 32 := BitVec.ofNat 32 (code.toNat * rScale / adcMax)

/-- `OHMS_FN`: the value the parameters give for the code, else the default (44_sampling.md R168, assumption log 4). -/
def ohmsFn (p : Params) (code : AnalogCode) : BitVec 32 := (p.ohmsTable.lookup code).getD (ohmsDefault code)

/-! ### ROM reads (20_memory.md R50, R51, R53) -/

/-- `MemRead(INIT, i, 1)`. -/
def initRead (p : Params) (i : Nat) : Byte := p.initSeq[i]?.getD (Config.initByte i)

/-- `MemRead(GLYPH, addr, 1)`. -/
def glyphRead (p : Params) (addr : Nat) : Byte := p.glyph[addr]?.getD (Config.glyphByte addr)

/-- `GLYPH[c][i]`, at address `8*c + i`. -/
def glyphColumn (p : Params) (c : CharCode) (i : Nat) : Byte := glyphRead p (glyphW * c.toNat + i)

/-! ### Cursor operands (30_encoding.md R79) -/

/-- `t = (x + COL_ORIGIN) mod 256`, the device column of a logical column. -/
def deviceColumn (p : Params) (x : Byte) : Byte := x + p.colOrigin.setWidth 8

/-- `0xB0 | (page & 0x07)` (43_display.md R135). -/
def pageCommand (page : Byte) : Byte := 0xB0#8 ||| (page &&& 0x07#8)

/-- `0x00 | (t & 0x0F)` (43_display.md R136). -/
def colLoCommand (t : Byte) : Byte := 0x00#8 ||| (t &&& 0x0F#8)

/-- `0x10 | ((t >> 4) & 0x0F)` (43_display.md R136). -/
def colHiCommand (t : Byte) : Byte := 0x10#8 ||| ((t >>> 4) &&& 0x0F#8)

/-! ### Text (00_scope.md R10, R14; 44_sampling.md R169) -/

/-- The character code of a decimal digit, `0x30 + digit`. -/
def digitCode (d : Nat) : CharCode := BitVec.ofNat 7 (0x30 + d)

/-- The decimal digits of `n`, most significant first, for an `n` of at most `fuel` digits. -/
def decDigits : Nat → Nat → List CharCode
  | 0, _ => []
  | fuel + 1, n => if n < 10 then [digitCode n] else decDigits fuel (n / 10) ++ [digitCode (n % 10)]

/-- `dec(v)`; a 32-bit value has at most 10 digits. -/
def dec (v : BitVec 32) : List CharCode := decDigits 10 v.toNat

/-- `pad5(s)`: `s` preceded by `max(0, 5 - len(s))` spaces. -/
def pad5 (s : List CharCode) : List CharCode := List.replicate (5 - s.length) 0x20#7 ++ s

/-- `line_R(ohms)`: "R: " .. " Ohms". -/
def lineR (ohms : BitVec 32) : List CharCode :=
  [0x52#7, 0x3A#7, 0x20#7] ++ pad5 (dec ohms) ++ [0x20#7, 0x4F#7, 0x68#7, 0x6D#7, 0x73#7]

/-- `line_F(hz)`: "F: " .. " Hz". -/
def lineF (hz : BitVec 32) : List CharCode :=
  [0x46#7, 0x3A#7, 0x20#7] ++ pad5 (dec hz) ++ [0x20#7, 0x48#7, 0x7A#7]

end Sys2Proof.Machine
end

