-- ==== Sys2Proof/Machine/Ops.lean ====
section
/-! DEFINITION. The named operations over display memory, the output traces, the sequencer's registers and the exceptions. -/

namespace Sys2Proof.Machine

/-! ### Display memory: a list of cells, addresses rising (20_memory.md R50, R52; assumption log 9) -/

/-- The byte listed at an address, if one is: a byte written since power-on. -/
def Memory.read : List Host.Cell → Nat → Option Byte
  | [], _ => none
  | (b, v) :: m, a => if a = b then some v else Memory.read m a

/-- The memory with the byte `v` at address `a`. -/
def Memory.write : List Host.Cell → Nat → Byte → List Host.Cell
  | [], a, v => [(a, v)]
  | (b, w) :: m, a, v =>
    if a < b then (a, v) :: (b, w) :: m
    else if a = b then (a, v) :: m
    else (b, w) :: Memory.write m a v

/-- The canonical form: addresses strictly rising, all inside the 8 by 128 bytes. -/
abbrev Memory.wf (m : List Host.Cell) : Prop :=
  m.Pairwise (fun a b => a.1 < b.1) ∧ ∀ c ∈ m, c.1 < dispPages * dispCols

/-- The address of `FB[page][x]`. -/
def fbAddress (page : Page) (x : Column) : Nat := dispCols * page.toNat + x.toNat

/-- `FB[page][x]`: the byte written last, else the one drawn at this power-on (20_memory.md R59). -/
def Device.pixelColumn (d : Device) (page : Page) (x : Column) : Byte :=
  (Memory.read d.fb (fbAddress page x)).getD (Config.fbPowerOn d.powerOns (fbAddress page x))

/-! ### Outputs (00_scope.md R10 `emit`, R11) -/

/-- `emit BUS(f)`: the frame joins `bus_trace` and is on its way to the display (10_state.md R43, 20_memory.md R64). -/
def emitBus (f : Frame) (s : State) : State := { s with busTrace := s.busTrace ++ [f], wire := s.wire ++ [f] }

/-- `emit DIAG(code)` (10_state.md R44). -/
def emitDiag (code : DiagCode) (s : State) : State := { s with diagTrace := s.diagTrace ++ [code] }

/-- `emit BTN_PRESSED` (10_state.md R45). -/
def emitButton (s : State) : State := { s with btnTrace := s.btnTrace ++ [s.ms] }

/-- `emit DAC(code)` (10_state.md R42). -/
def emitDac (code : AnalogCode) (s : State) : State := { s with dacTrace := s.dacTrace ++ [code] }

/-- `emit ADC_START` (10_state.md R41). -/
def emitAdcStart (s : State) : State := { s with adcTrace := s.adcTrace ++ [()] }

/-! ### Exceptions (60_exceptions.md R200 to R206) -/

/-- The three exceptions of the block (R200). -/
inductive Exception where
  | zeroTickCapture
  | measurementOverflow
  | busStall
  deriving DecidableEq, Repr

/-- The diagnostic code of an exception (R201). -/
def Exception.code : Exception → DiagCode
  | .zeroTickCapture => 1#2
  | .measurementOverflow => 2#2
  | .busStall => 3#2

/-- Taking an exception (R203): emit its code, save nothing, go nowhere. There is no return operation (R211). -/
def raise (e : Exception) (s : State) : State := emitDiag e.code s

/-! ### The sequencer (10_state.md R31, R32) -/

/-- `enqueue(frames)`: `TXQ <- TXQ ++ frames`. -/
def enqueue (frames : List Frame) (s : State) : State := { s with txq := s.txq ++ frames }

/-- `PHASE <- code`. -/
def goto (code : PhaseCode) (s : State) : State := { s with phase := code }

end Sys2Proof.Machine
end

