-- ==== Sys2Proof/Machine/Flags.lean ====
section
/-! DEFINITION. Flags and conditions: the encodings of R75, the capture session's two flags, the two distance tests, the poll limit, and
the control pins of one frame's transfer. -/

namespace Sys2Proof.Machine

/-- The 1-bit value of a flag: 1 when it holds (30_encoding.md R75). -/
def flagBit (b : Bool) : BitVec 1 := BitVec.ofBool b

/-- The session becomes Armed and the counter runs (41_capture.md R102). -/
def setArmed (s : State) : State := { s with armed := true, cntRun := true }

/-- The session becomes Idle and the counter stops (41_capture.md R103, R106). -/
def setIdle (s : State) : State := { s with armed := false, cntRun := false }

/-- A button edge is accepted at a distance of at least `DEBOUNCE_WINDOW` (42_debounce.md R121, R122). -/
def debounceAccepts (ms lastAcc : BitVec 16) : Bool := decide (debounceWindow ≤ (wsub16 ms lastAcc).toNat)

/-- The pacing delay is over (44_sampling.md R175). -/
def delayOver (ms delayT0 : BitVec 16) : Bool := decide (refreshDelayMs ≤ (wsub16 ms delayT0).toNat)

/-- `WAIT_CNT >= WAIT_LIMIT`, never true when the limit is infinite (43_display.md R134). -/
def limitReached : WaitLimit → Nat → Bool
  | .infinity, _ => false
  | .polls n _, count => decide (n ≤ count)

/-! ### Pins (43_display.md R133) -/

/-- One act of the pin-level transfer of a frame. -/
inductive PinEvent where
  /-- `CS_N` is driven to a level. -/
  | csN (level : Bool)
  /-- `DC` is driven to a level. -/
  | dc (level : Bool)
  /-- The wait until `BUS_RDY = 1`. -/
  | waitReady
  /-- One `SCLK` pulse with a level on `MOSI`. -/
  | shiftOut (level : Bool)
  deriving DecidableEq, Repr

/-- The bits of a byte in the order they are shifted out, most significant first (20_memory.md R54). -/
def shiftOrder (b : Byte) : List Bool := (List.range 8).map fun i => b.getLsbD (7 - i)

/-- The seven steps of R133 for one frame. -/
def pinSequence (f : Frame) : List PinEvent :=
  [.csN true, .dc f.isData, .csN false, .waitReady] ++ (shiftOrder f.byte).map .shiftOut ++ [.csN true, .dc true]

/-- What one act does to the two pins the block holds as registers (10_state.md R38). -/
def drivePin (s : State) : PinEvent → State
  | .csN level => { s with csN := level }
  | .dc level => { s with dc := level }
  | .waitReady => s
  | .shiftOut _ => s

/-- The acts of a list, in order. -/
def drivePins (acts : List PinEvent) (s : State) : State := acts.foldl drivePin s

end Sys2Proof.Machine
end

