-- ==== Sys2Proof/Machine/Debounce.lean ====
section
/-! DEFINITION. The debounce unit DEB: `MSTICK`, `BEDGE` (42_debounce.md). -/

namespace Sys2Proof.Machine

/-- `MSTICK` (42_debounce.md R120). -/
def execMstick (s : State) : Host.Outcome State Fault Refusal := .next { s with ms := s.ms + 1#16 }

/-- `BEDGE` (42_debounce.md R121). -/
def execBedge (s : State) : Host.Outcome State Fault Refusal :=
  if debounceAccepts s.ms s.lastAcc then .next (emitButton { s with lastAcc := s.ms })
  else .next s

end Sys2Proof.Machine
end

