-- ==== Sys2Proof/Machine/Panel.lean ====
section
/-! DEFINITION. The display device (20_memory.md R58 to R63): what one frame does to it. The meaning of a frame operation is the device's
consumption of that frame: before the 29th init frame a command only counts, after it a command is decoded by its value (R60, R61; assumption log 12). -/

namespace Sys2Proof.Machine

/-- `{col[7:4], b[3:0]}`: the low nibble written, the high one left (20_memory.md R61). -/
def withLowNibble (col : Byte) (b : Byte) : Byte := (col &&& 0xF0#8) ||| (b &&& 0x0F#8)

/-- `{b[3:0], col[3:0]}`: the high nibble written, the low one left (20_memory.md R61). -/
def withHighNibble (col : Byte) (b : Byte) : Byte := ((b &&& 0x0F#8) <<< 4) ||| (col &&& 0x0F#8)

/-- The device consumes the command frame `C(b)` (20_memory.md R60, R61). -/
def Device.command (b : Byte) (d : Device) : Except Refusal Device :=
  if d.initCount < initLen then .ok { d with initCount := d.initCount + 1 }
  else if b.extractLsb' 3 5 = 0b10110#5 then .ok { d with page := b.extractLsb' 0 3 }
  else if b.extractLsb' 4 4 = 0b0000#4 then .ok { d with col := withLowNibble d.col b }
  else if b.extractLsb' 4 4 = 0b0001#4 then .ok { d with col := withHighNibble d.col b }
  else .error (.unknownCommand b)

/-- The logical column `x = DEV_COL - COL_ORIGIN`, where it lies in 0 to 127 (20_memory.md R62). -/
def logicalColumn (origin : BitVec 7) (col : Byte) : Option Column :=
  if origin.toNat ≤ col.toNat ∧ col.toNat - origin.toNat ≤ 127 then some (BitVec.ofNat 7 (col.toNat - origin.toNat)) else none

/-- The device consumes the data frame `D(v)` (20_memory.md R60, R62, R63). -/
def Device.data (origin : BitVec 7) (v : Byte) (d : Device) : Except Refusal Device :=
  if d.initCount < initLen then .error .dataBeforeInit
  else
    match logicalColumn origin d.col with
    | some x => .ok { d with fb := Memory.write d.fb (fbAddress d.page x) v, col := d.col + 1#8 }
    | none => .error .dataOutsideColumns

/-- The device consumes a frame (20_memory.md R58). -/
def Device.consume (origin : BitVec 7) (f : Frame) (d : Device) : Except Refusal Device :=
  if f.isData then Device.data origin f.byte d else Device.command f.byte d

/-- The device consumes the frames of a list, in order, each wholly before the next (20_memory.md R58, R64). -/
def Device.feed (origin : BitVec 7) : List Frame → Device → Except Refusal Device
  | [], d => .ok d
  | f :: fs, d =>
    match Device.consume origin f d with
    | .ok d' => Device.feed origin fs d'
    | .error r => .error r

/-- The state after the device has consumed a frame, or the device's refusal. -/
def withDevice (s : State) : Except Refusal Device → Host.Outcome State Fault Refusal
  | .ok d => .next { s with dev := d }
  | .error r => .refused r

/-- `INIT_CMD` at the device (20_memory.md R60). -/
def execInitCmd (byte : Byte) (s : State) : Host.Outcome State Fault Refusal := withDevice s (s.dev.command byte)

/-- `PAGE_SEL` at the device (20_memory.md R61). -/
def execPageSel (page : Page) (s : State) : Host.Outcome State Fault Refusal := withDevice s (s.dev.command (0xB0#8 ||| page.setWidth 8))

/-- `COL_LO` at the device (20_memory.md R61). -/
def execColLo (nibble : BitVec 4) (s : State) : Host.Outcome State Fault Refusal := withDevice s (s.dev.command (0x00#8 ||| nibble.setWidth 8))

/-- `COL_HI` at the device (20_memory.md R61). -/
def execColHi (nibble : BitVec 4) (s : State) : Host.Outcome State Fault Refusal := withDevice s (s.dev.command (0x10#8 ||| nibble.setWidth 8))

/-- `DATA` at the device (20_memory.md R62). -/
def execData (byte : Byte) (s : State) : Host.Outcome State Fault Refusal := withDevice s (s.dev.data s.params.colOrigin byte)

end Sys2Proof.Machine
end

