-- ==== Sys2Proof/Machine/Capture.lean ====
section
/-! DEFINITION. The capture unit CAP: `TICK`, `OVF`, `FEDGE`, and the handling of one qualifying edge (41_capture.md). -/

namespace Sys2Proof.Machine

/-- `cap_edge` in Idle, the arming edge (41_capture.md R102). -/
def armingEdge (s : State) : State := setArmed { s with cnt := 0#32, startTicks := 0#32 }

/-- `cap_edge` in Armed, the closing edge (41_capture.md R103). -/
def closingEdge (s : State) : State :=
  let t := elapsed s.cnt s.startTicks
  if t = 0#32 then raise .zeroTickCapture (setIdle s)
  else { setIdle s with hz := frequencyReading s.params.fTick t }

/-- `cap_edge`: one qualifying edge (41_capture.md R100, R102, R103). -/
def capEdge (s : State) : State := if s.armed then closingEdge s else armingEdge s

/-- The handling of an overflow (41_capture.md R106). -/
def overflow (s : State) : State := setIdle (raise .measurementOverflow s)

/-- `TICK` (41_capture.md R101). -/
def execTick (s : State) : Host.Outcome State Fault Refusal :=
  if s.cntRun then
    if s.cnt = 0xFFFFFFFF#32 then .next (overflow { s with cnt := 0#32 })
    else .next { s with cnt := s.cnt + 1#32 }
  else .next s

/-- `OVF` (41_capture.md R106). -/
def execOvf (s : State) : Host.Outcome State Fault Refusal := .next (overflow s)

/-- `FEDGE` (41_capture.md R104). -/
def execFedge (s : State) : Host.Outcome State Fault Refusal :=
  if s.edgeMask then
    match s.params.maskedEdge with
    | .latch => .next { s with edgePend := true }
    | .drop => .next s
  else .next (capEdge s)

end Sys2Proof.Machine
end

