-- ==== Sys2Proof/Machine/Display.lean ====
section
/-! DEFINITION. The display driver's one step of its own, `SEND` (43_display.md R134), and the unsuccessful poll it shares with `PH_WAIT`. -/

namespace Sys2Proof.Machine

/-- One unsuccessful poll (43_display.md R134, 44_sampling.md R166): count it; at the limit raise `BusStall` and stop the sequencer. -/
def pollFailed (s : State) : State :=
  let s' := { s with waitCnt := s.waitCnt + 1 }
  if limitReached s.params.waitLimit s'.waitCnt then goto phStalledCode (raise .busStall s') else s'

/-- The transfer of one frame: the pin sequence of R133, and the frame on the bus. -/
def transfer (f : Frame) (s : State) : State := emitBus f (drivePins (pinSequence f) s)

/-- `SEND` (43_display.md R134). -/
def execSend (busRdy : Bool) (s : State) : Host.Outcome State Fault Refusal :=
  match s.txq with
  | [] => .refused .sendWithoutFrame
  | f :: rest =>
    if busRdy then .next { transfer f s with txq := rest, waitCnt := 0 }
    else .next (pollFailed s)

end Sys2Proof.Machine
end

