-- ==== Sys2Proof/Machine/Driver.lean ====
section
/-! DEFINITION. The display driver's operations, each a function from its arguments to the list of frames it queues (43_display.md R130,
30_encoding.md R88). -/

namespace Sys2Proof.Machine

/-- `DSP.SETPAGE p` (43_display.md R135). -/
def setPageFrames (page : Byte) : List Frame := [cmdFrame (pageCommand page)]

/-- `DSP.SETCOL x`: low nibble, then high nibble (43_display.md R136, 30_encoding.md R80). -/
def setColFrames (p : Params) (x : Byte) : List Frame :=
  [cmdFrame (colLoCommand (deviceColumn p x)), cmdFrame (colHiCommand (deviceColumn p x))]

/-- The frames of one cursor position (30_encoding.md R80). -/
def cursorFrames (p : Params) (page x : Byte) : List Frame := setPageFrames page ++ setColFrames p x

/-- `DSP.GLYPH p x c` (43_display.md R137). -/
def glyphFrames (p : Params) (page x : Byte) (c : CharCode) : List Frame :=
  cursorFrames p page x ++ (List.range glyphW).map fun i => dataFrame (glyphColumn p c i)

/-- `DSP.TEXT p x s`: a character is drawn while its column is at most `LAST_START_COL` (43_display.md R142, R143). -/
def textFrames (p : Params) (page : Byte) : Nat → List CharCode → List Frame
  | _, [] => []
  | col, c :: cs =>
    if lastStartCol < col then []
    else glyphFrames p page (BitVec.ofNat 8 col) c ++ textFrames p page (col + glyphW) cs

/-- `DSP.CLEAR` (43_display.md R139). -/
def clearFrames (p : Params) : List Frame :=
  (List.range dispPages).flatMap fun page =>
    cursorFrames p (BitVec.ofNat 8 page) 0#8 ++ List.replicate dispCols (dataFrame 0#8)

/-- `DSP.INIT` (43_display.md R140). -/
def initFrames (p : Params) : List Frame := (List.range initLen).map fun i => cmdFrame (initRead p i)

/-- A driver operation called by itself, with the operands as they are given (30_encoding.md R88). -/
inductive DspOp where
  | cmd (b : Byte)
  | data (b : Byte)
  | setPage (page : Byte)
  | setCol (x : Byte)
  | glyph (page x c : Byte)
  | text (page x : Byte) (s : List Byte)
  | clear
  | init
  deriving DecidableEq, Repr

/-- The operand ranges of 43_display.md R136, R137, R138, R142 and 93_implementation_defined.md U17, U19: a column of `SETCOL` at most 127,
a glyph's column at most 120, a character code below 0x80. Any page is taken (R135, U18), and `DSP.TEXT` from any column past 120 draws
nothing (U19). -/
def DspOp.wellFormed : DspOp → Bool
  | .cmd _ => true
  | .data _ => true
  | .setPage _ => true
  | .setCol x => decide (x.toNat ≤ 127)
  | .glyph _ x c => decide (x.toNat ≤ lastStartCol) && decide (c.toNat < 0x80)
  | .text _ _ s => s.all fun c => decide (c.toNat < 0x80)
  | .clear => true
  | .init => true

/-- The frames of a driver operation whose operands are in range. -/
def DspOp.frames (p : Params) : DspOp → List Frame
  | .cmd b => [cmdFrame b]
  | .data b => [dataFrame b]
  | .setPage page => setPageFrames page
  | .setCol x => setColFrames p x
  | .glyph page x c => glyphFrames p page x (c.setWidth 7)
  | .text page x s => textFrames p page x.toNat (s.map fun c => c.setWidth 7)
  | .clear => clearFrames p
  | .init => initFrames p

/-- The expansion of a driver operation; one outside its operand range is refused. -/
def DspOp.expand (p : Params) (op : DspOp) : Except Refusal (List Frame) :=
  if op.wellFormed then .ok (op.frames p) else .error .operandOutOfRange

end Sys2Proof.Machine
end

