-- ==== Sys2Proof/Machine/Sampling.lean ====
section
/-! DEFINITION. The sampling orchestrator SMP: the 13 phases (44_sampling.md). Each ends by writing `PHASE`, a poll keeps it (R161). -/

namespace Sys2Proof.Machine

/-- `PH_INIT` (44_sampling.md R163). -/
def execPhInit (s : State) : Host.Outcome State Fault Refusal :=
  .next (goto phClearCode (enqueue (initFrames s.params) s))

/-- `PH_CLEAR` (44_sampling.md R164). -/
def execPhClear (s : State) : Host.Outcome State Fault Refusal :=
  .next (goto phStartCode (enqueue (clearFrames s.params) s))

/-- `PH_START` (44_sampling.md R165). -/
def execPhStart (s : State) : Host.Outcome State Fault Refusal :=
  .next (goto phWaitCode { emitAdcStart s with waitCnt := 0 })

/-- `PH_WAIT` (44_sampling.md R166). -/
def execPhWait (adcRdy : Bool) (adcData : AnalogCode) (s : State) : Host.Outcome State Fault Refusal :=
  if adcRdy then .next (goto phDacCode { s with sample := adcData, waitCnt := 0 })
  else .next (pollFailed s)

/-- `PH_DAC` (44_sampling.md R167). -/
def execPhDac (s : State) : Host.Outcome State Fault Refusal :=
  .next (goto phComputeCode (emitDac s.sample { s with dacData := s.sample }))

/-- `PH_COMPUTE` (44_sampling.md R168). -/
def execPhCompute (s : State) : Host.Outcome State Fault Refusal :=
  .next (goto phMaskCode { s with ohms := ohmsFn s.params s.sample })

/-- `PH_MASK` (44_sampling.md R170). -/
def execPhMask (s : State) : Host.Outcome State Fault Refusal :=
  .next (goto phRenderRCode { s with edgeMask := true })

/-- `PH_RENDER_R` (44_sampling.md R171). -/
def execPhRenderR (s : State) : Host.Outcome State Fault Refusal :=
  .next (goto phRenderFCode (enqueue (textFrames s.params s.params.pageR textCol0 (lineR s.ohms)) s))

/-- `PH_RENDER_F` (44_sampling.md R172). -/
def execPhRenderF (s : State) : Host.Outcome State Fault Refusal :=
  .next (goto phUnmaskCode (enqueue (textFrames s.params s.params.pageF textCol0 (lineF s.hz)) s))

/-- `PH_UNMASK`: unmask, and deliver a pending edge in the same step (44_sampling.md R173). -/
def execPhUnmask (s : State) : Host.Outcome State Fault Refusal :=
  if s.edgePend then .next (goto phDelayArmCode (capEdge { s with edgeMask := false, edgePend := false }))
  else .next (goto phDelayArmCode { s with edgeMask := false })

/-- `PH_DELAY_ARM` (44_sampling.md R174). -/
def execPhDelayArm (s : State) : Host.Outcome State Fault Refusal :=
  .next (goto phDelayWaitCode { s with delayT0 := s.ms })

/-- `PH_DELAY_WAIT` (44_sampling.md R175). -/
def execPhDelayWait (s : State) : Host.Outcome State Fault Refusal :=
  if delayOver s.ms s.delayT0 then .next (goto phStartCode s) else .next s

/-- `PH_STALLED`: nothing (44_sampling.md R176). -/
def execPhStalled (s : State) : Host.Outcome State Fault Refusal := .next s

end Sys2Proof.Machine
end

