-- ==== Sys2Proof/Machine/Dispatch.lean ====
section
/-! DEFINITION. The one dispatch: what an operation does, one arm per constructor. -/

namespace Sys2Proof.Machine

def exec (i : Instr) (s : State) : Host.Outcome State Fault Refusal :=
  match i with
  | .tick => Sys2Proof.Machine.execTick s
  | .ovf => Sys2Proof.Machine.execOvf s
  | .fedge => Sys2Proof.Machine.execFedge s
  | .mstick => Sys2Proof.Machine.execMstick s
  | .bedge => Sys2Proof.Machine.execBedge s
  | .send busRdy => Sys2Proof.Machine.execSend busRdy s
  | .phInit => Sys2Proof.Machine.execPhInit s
  | .phClear => Sys2Proof.Machine.execPhClear s
  | .phStart => Sys2Proof.Machine.execPhStart s
  | .phWait adcRdy adcData => Sys2Proof.Machine.execPhWait adcRdy adcData s
  | .phDac => Sys2Proof.Machine.execPhDac s
  | .phCompute => Sys2Proof.Machine.execPhCompute s
  | .phMask => Sys2Proof.Machine.execPhMask s
  | .phRenderR => Sys2Proof.Machine.execPhRenderR s
  | .phRenderF => Sys2Proof.Machine.execPhRenderF s
  | .phUnmask => Sys2Proof.Machine.execPhUnmask s
  | .phDelayArm => Sys2Proof.Machine.execPhDelayArm s
  | .phDelayWait => Sys2Proof.Machine.execPhDelayWait s
  | .phStalled => Sys2Proof.Machine.execPhStalled s
  | .initCmd byte => Sys2Proof.Machine.execInitCmd byte s
  | .pageSel page => Sys2Proof.Machine.execPageSel page s
  | .colLo nibble => Sys2Proof.Machine.execColLo nibble s
  | .colHi nibble => Sys2Proof.Machine.execColHi nibble s
  | .data byte => Sys2Proof.Machine.execData byte s

end Sys2Proof.Machine
end

