-- ==== Sys2Proof/Machine/Sequencer.lean ====
section
/-! DEFINITION. The parts of one global step (00_scope.md R7, 30_encoding.md R71, R73): the events of a stimulus word in their fixed order,
the foreground step, and the display device's turn. -/

namespace Sys2Proof.Machine

/-- Go on with `k` where a part answers a next state. -/
def andThen (o : Host.Outcome State Fault Refusal) (k : State → Host.Outcome State Fault Refusal) : Host.Outcome State Fault Refusal :=
  match o with
  | .next s => k s
  | .fault r => .fault r
  | .refused r => .refused r

/-- The operations of a list, each on the state its predecessors left (30_encoding.md R71). -/
def execAll : List Instr → State → Host.Outcome State Fault Refusal
  | [], s => .next s
  | i :: is, s => andThen (exec i s) (execAll is)

/-- The reason a word is refused when it decodes to nothing. -/
def decodeRefusal : DecodeError → Refusal
  | .reservedPhase code => .reservedPhase code
  | .unknownCommand byte => .unknownCommand byte

/-- The event part of a stimulus word (30_encoding.md R71). -/
def eventPart (w : StimWord) (s : State) : Host.Outcome State Fault Refusal := execAll (decodeEvents w) s

/-- The foreground part: one foreground step if `FG` is set (30_encoding.md R71, R73). -/
def foregroundPart (w : StimWord) (s : State) : Host.Outcome State Fault Refusal :=
  if w.fg then
    match decodeForeground s.phase (!s.txq.isEmpty) w with
    | .ok i => exec i s
    | .error e => .refused (decodeRefusal e)
  else .next s

/-- The operation the device reads next, if a frame is on its way. -/
def deviceFetch (s : State) : Option (Except DecodeError Instr) :=
  s.wire.head?.map (decodeFrame (decide (initLen ≤ s.dev.initCount)))

/-- The device's turn: it consumes the oldest frame on the wire. On a frame without meaning the device has no step: the frame stays, and
nothing after it is consumed (20_memory.md R58, R63; assumption log 6). -/
def devicePart (s : State) : State :=
  match deviceFetch s with
  | some (.ok i) =>
    match exec i { s with wire := s.wire.tail } with
    | .next s' => s'
    | .fault _ => s
    | .refused _ => s
  | some (.error _) => s
  | none => s

/-- One global step on a stimulus word (00_scope.md R7). -/
def globalStep (w : StimWord) (s : State) : Host.Outcome State Fault Refusal :=
  andThen (andThen (eventPart w s) (foregroundPart w)) fun s' => .next (devicePart s')

/-- The next input: the first listed one, else a free choice of the environment (00_scope.md R8; assumption log 1). -/
def nextInput (s : State) : Input :=
  match s.inputs with
  | i :: _ => i
  | [] => .stim (Config.envStimulus s.envStep)

/-- The state once the next input has been taken. -/
def afterInput (s : State) : State :=
  match s.inputs with
  | _ :: rest => { s with inputs := rest }
  | [] => { s with envStep := s.envStep + 1 }

/-- `RST`: every register at its reset value, the traces empty, the display powered up with the block, its unspecified state drawn anew
(70_reset_and_hazards.md R230, R231, R233; assumption log 2, log 8). What the outside world still has to give is its own. -/
def resetStep (s : State) : State :=
  { State.resetWith s.params with inputs := s.inputs, envStep := s.envStep, dev := Device.powerOn (s.dev.powerOns + 1) }

/-- One step on an input. -/
def inputStep (i : Input) (s : State) : Host.Outcome State Fault Refusal :=
  match i with
  | .rst => .next (resetStep s)
  | .stim w => globalStep w s

/-! ### Placing one table word where the next step finds it (assumption log 14) -/

/-- A stimulus word is the next input. Where its `FG` selects `SEND` (no strobe set), a frame is queued and the sequencer is not stalled. -/
def placeStim (w : StimWord) (s : State) : State :=
  let s' := { s with inputs := [.stim w], wire := [] }
  if w.fg && (decodeEvents w).isEmpty then
    { s' with
      txq := if s.txq.isEmpty then [cmdFrame 0#8] else s.txq
      phase := if s.phase = phStalledCode then phClearCode else s.phase }
  else s'

/-- A phase code is the value of `PHASE`, with an empty queue, and the next input is one foreground step. -/
def placePhase (code : PhaseCode) (s : State) : State :=
  { s with phase := code, txq := [], wire := [], inputs := [.stim (fgWord false false 0#12)] }

/-- A frame is on the wire, and the next input is the word that does nothing. A frame that is read by its value finds the init list
complete, one that is not finds it open; a data frame finds the cursor at column 0. -/
def placeFrame (f : Frame) (s : State) : State :=
  let d : Device :=
    match decodeFrameRow f with
    | some (.initCmd _) => { s.dev with initCount := 0 }
    | some (.data _) => { s.dev with initCount := initLen, col := s.params.colOrigin.setWidth 8 }
    | _ => { s.dev with initCount := initLen }
  { s with wire := [f], inputs := [.stim 0#19], dev := d }

/-- The state with a table word placed; the width tells the format, as in `decodeTableWord`. -/
def placeTableWord (nbits w : Nat) (s : State) : State :=
  if nbits ≤ 8 then placePhase (BitVec.ofNat 4 w) s
  else if nbits ≤ 16 then placeFrame (BitVec.ofNat 9 w) s
  else placeStim (BitVec.ofNat 19 w) s

end Sys2Proof.Machine
end

