-- ==== Sys2Proof/Machine/Step.lean ====
section
/-! DEFINITION. One step of the machine: one input, then the global step it drives (00_scope.md R7). -/

namespace Sys2Proof.Machine

/-- One global step on the next input. -/
def step (s : State) : Host.Outcome State Fault Refusal := inputStep (nextInput s) (afterInput s)

/-- The state in which the next step runs exactly the operation of a table word (assumption log 14). -/
def State.withFetchWord (s : State) (nbits w : Nat) : State := placeTableWord nbits w s

end Sys2Proof.Machine
end

