-- ==== Sys2Proof/Safety.lean ====
section
/-! DEFINITION. What a good state and a safe run are, in the terms the statements use. -/

namespace Sys2Proof.Machine

/-- The next input is a stimulus word (not `RST`). -/
def TakesStimulus (s : State) : Prop := ∃ w, nextInput s = .stim w

/-! ### Invariants -/

/-- The counter runs exactly while a session is Armed, and `START_TICKS` holds 0 (10_state.md R23, R24; 41_capture.md R108). -/
def CaptureInv (s : State) : Prop := s.cntRun = s.armed ∧ s.startTicks = 0#32

/-- `PHASE` is one of its 13 legal values (10_state.md R30, 30_encoding.md R84). -/
def PhaseInv (s : State) : Prop := legalPhase s.phase = true

/-- The edge event is masked exactly in the phases between `PH_MASK` and `PH_UNMASK` (unless the sequencer has stopped), and an edge is
pending only while it is masked and only under `LATCH` (10_state.md R26, R27; 44_sampling.md R170, R173). -/
def MaskInv (s : State) : Prop :=
  (s.phase ≠ phStalledCode →
    (s.edgeMask = true ↔ s.phase = phRenderRCode ∨ s.phase = phRenderFCode ∨ s.phase = phUnmaskCode)) ∧
  (s.edgePend = true → s.edgeMask = true ∧ s.params.maskedEdge = .latch)

/-- The code on the analog output and the code `OHMS` is computed from are this iteration's `SAMPLE` (44_sampling.md R177). -/
def IterationInv (s : State) : Prop :=
  (phComputeCode.toNat ≤ s.phase.toNat ∧ s.phase.toNat ≤ phDelayWaitCode.toNat → s.dacData = s.sample) ∧
  (phMaskCode.toNat ≤ s.phase.toNat ∧ s.phase.toNat ≤ phDelayWaitCode.toNat → s.ohms = ohmsFn s.params s.sample)

/-- Display memory keeps its canonical form, and `DEV_INIT` its range (20_memory.md R52, R59). -/
def MemoryInv (s : State) : Prop := Memory.wf s.dev.fb ∧ s.dev.initCount ≤ initLen

/-! ### The frames of the bus (43_display.md R147) -/

/-- The frames of one refresh: the resistance line of a value, then the frequency line of a value. -/
def refreshFrames (p : Params) (shown : BitVec 32 × BitVec 32) : List Frame :=
  textFrames p p.pageR textCol0 (lineR shown.1) ++ textFrames p p.pageF textCol0 (lineF shown.2)

/-- The frames of the start-up and of a list of complete refreshes. -/
def framesOf (p : Params) (shown : List (BitVec 32 × BitVec 32)) : List Frame :=
  initFrames p ++ clearFrames p ++ shown.flatMap (refreshFrames p)

/-- The frames sent, followed by those queued, are exactly what the sequencer's position says: nothing before `PH_INIT`, the init list before
`PH_CLEAR`, then the clear and whole refreshes, with the resistance line of a refresh begun between `PH_RENDER_R` and `PH_RENDER_F`. A
sequencer that has stopped has any of the last three. -/
def BusInv (s : State) : Prop :=
  let frames := s.busTrace ++ s.txq
  let start := frames = initFrames s.params
  let whole := ∃ shown, frames = framesOf s.params shown
  let begun := ∃ shown ohms, frames = framesOf s.params shown ++ textFrames s.params s.params.pageR textCol0 (lineR ohms)
  if s.phase = phInitCode then frames = []
  else if s.phase = phClearCode then start
  else if s.phase = phRenderFCode then begun
  else if s.phase = phStalledCode then start ∨ whole ∨ begun
  else whole

/-- The display follows the bus: nothing is stuck on the wire, the device is where the frames sent have brought it from power-on, and it has
a meaning for every frame still queued (20_memory.md R58, R63). -/
def DisplayInv (s : State) : Prop :=
  s.wire = [] ∧
  Device.feed s.params.colOrigin s.busTrace (Device.powerOn s.dev.powerOns) = .ok s.dev ∧
  (s.phase = phInitCode → s.txq = [] ∧ s.dev.initCount = 0) ∧
  (s.phase = phClearCode → (∀ f ∈ s.txq, f.isData = false) ∧ s.dev.initCount + s.txq.length = initLen) ∧
  (s.phase ≠ phInitCode → s.phase ≠ phClearCode → s.phase ≠ phStalledCode →
    ∃ d, Device.feed s.params.colOrigin s.txq s.dev = .ok d ∧ d.initCount = initLen)

/-! ### The sequencer's successors (44_sampling.md R161) -/

/-- The phase a phase operation writes when it is not a poll. -/
def successor (code : PhaseCode) : PhaseCode :=
  if code = phDelayWaitCode then phStartCode
  else if code = phStalledCode then phStalledCode
  else code + 1#4

/-! ### Agreement of two states on what one context owns (10_state.md R47) -/

/-- The two states agree on the event context's registers and outputs, and on what it reads: `EDGE_MASK` and the parameters. -/
def SameEventSide (s t : State) : Prop :=
  s.armed = t.armed ∧ s.cnt = t.cnt ∧ s.cntRun = t.cntRun ∧ s.startTicks = t.startTicks ∧ s.hz = t.hz ∧ s.ms = t.ms ∧
  s.lastAcc = t.lastAcc ∧ s.edgePend = t.edgePend ∧ s.diagTrace = t.diagTrace ∧ s.btnTrace = t.btnTrace ∧
  s.edgeMask = t.edgeMask ∧ s.params = t.params

/-- The two states agree on the foreground context's registers and outputs. -/
def SameForegroundSide (s t : State) : Prop :=
  s.phase = t.phase ∧ s.txq = t.txq ∧ s.sample = t.sample ∧ s.dacData = t.dacData ∧ s.ohms = t.ohms ∧ s.delayT0 = t.delayT0 ∧
  s.waitCnt = t.waitCnt ∧ s.csN = t.csN ∧ s.dc = t.dc ∧ s.edgeMask = t.edgeMask ∧ s.busTrace = t.busTrace ∧
  s.dacTrace = t.dacTrace ∧ s.adcTrace = t.adcTrace

/-- The two states agree on the display device and the frames on their way to it, on the inputs still to come, and on the parameters. -/
def SameOutside (s t : State) : Prop :=
  s.dev = t.dev ∧ s.wire = t.wire ∧ s.inputs = t.inputs ∧ s.envStep = t.envStep ∧ s.params = t.params

/-- Who performs an operation: a handler of the event context, the foreground sequencer, or the display device (00_scope.md R8,
60_exceptions.md R212). -/
inductive Context where
  | event
  | foreground
  | device
  deriving DecidableEq, Repr

/-- The context of each operation. -/
def Instr.context : Instr → Context
  | .tick | .ovf | .fedge | .mstick | .bedge => .event
  | .send _ | .phInit | .phClear | .phStart | .phWait _ _ | .phDac | .phCompute | .phMask | .phRenderR | .phRenderF | .phUnmask
  | .phDelayArm | .phDelayWait | .phStalled => .foreground
  | .initCmd _ | .pageSel _ | .colLo _ | .colHi _ | .data _ => .device

/-! ### What is drawn (43_display.md R143) -/

/-- How many characters of a long line that starts at a column are drawn: one for every 8 columns up to column 120. -/
def drawnFrom (col : Nat) : Nat := if col ≤ lastStartCol then (lastStartCol - col) / glyphW + 1 else 0

/-! ### Runs -/

/-- The state with the given inputs to come next, in front of those it has. -/
def withInputs (ins : List Input) (s : State) : State := { s with inputs := ins ++ s.inputs }

/-- `k` steps, stopping at the first refusal (`Host.Core.run` of this machine, Sys2Proof/Laws/Run.lean `core_run`). -/
def run : Nat → State → Host.Outcome State Fault Refusal
  | 0, s => .next s
  | k + 1, s => andThen (step s) (run k)

/-- A safe run of `k` steps: none of them is refused. -/
def SafeRun (k : Nat) (s : State) : Prop := ∃ t, run k s = .next t

end Sys2Proof.Machine
end

