-- ==== Sys2Proof/Certificates/Slice0/Obligations.lean ====
section
/-! DEFINITION. The statements about the machine, each formalising rules of spec/ or derived from them. -/

open Sys2Proof Sys2Proof.Machine

/-! ### The step and the encodings -/

/-- A step takes the next word, performs its events and its foreground step, then gives the display its turn. Where the word decodes to one
operation, that is what runs: an event (30_encoding.md R71), the foreground operation (R73), and, when the word does nothing, the frame
operation the display reads from the wire (20_memory.md R58). The list of inputs is the model's choice, assumption log 1; the display's turn at
the end of the step is the model's choice, log 7. The last two clauses, that the display's turn changes nothing where the oldest frame decodes
to an operation the device refuses or to nothing at all, are the model's choice, log 6: the spec says only that the device model refuses such
a frame (20_memory.md R63). -/
def Obligations.StepRunsDecodedOperation : Prop :=
  (∀ (s : State) (w : StimWord) (rest : List Input),
    s.inputs = .stim w :: rest →
      step s = andThen (andThen (eventPart w { s with inputs := rest }) (foregroundPart w)) fun t => .next (devicePart t)) ∧
  (∀ (s : State) (w : StimWord) (rest : List Input) (i : Instr),
    s.inputs = .stim w :: rest → decode (.strobes w) = .ok [i] → w.fg = false →
      step s = andThen (exec i { s with inputs := rest }) fun t => .next (devicePart t)) ∧
  (∀ (s : State) (w : StimWord) (rest : List Input) (i : Instr),
    s.inputs = .stim w :: rest → decode (.strobes w) = .ok [] → w.fg = true →
      decode (.foreground s.phase (!s.txq.isEmpty) w) = .ok [i] →
      step s = andThen (exec i { s with inputs := rest }) fun t => .next (devicePart t)) ∧
  (∀ (s t : State) (w : StimWord) (rest : List Input) (f : Frame) (fs : List Frame) (i : Instr),
    s.inputs = .stim w :: rest → decode (.strobes w) = .ok [] → w.fg = false → s.wire = f :: fs →
      decode (.frame (decide (29 ≤ s.dev.initCount)) f) = .ok [i] →
      exec i { s with inputs := rest, wire := fs } = .next t → step s = .next t) ∧
  (∀ (s : State) (f : Frame) (fs : List Frame) (i : Instr) (r : Refusal),
    s.wire = f :: fs → decode (.frame (decide (29 ≤ s.dev.initCount)) f) = .ok [i] →
      exec i { s with wire := fs } = .refused r → devicePart s = s) ∧
  (∀ (s : State) (f : Frame) (fs : List Frame) (e : DecodeError),
    s.wire = f :: fs → decode (.frame (decide (29 ≤ s.dev.initCount)) f) = .error e → devicePart s = s)

/-- 30_encoding.md R71: the block's part of a global step is a sequence, each operation on the state its predecessors left; a word with bits 4:0
all zero changes nothing; every word is legal (at a reserved `PHASE`, which no run reaches, the foreground step is refused: R84). -/
def Obligations.StimulusWordIsASequence : Prop :=
  (∀ (w : StimWord) (s : State),
    andThen (eventPart w s) (foregroundPart w) =
      andThen (if w[0] then exec .tick s else .next s) fun a =>
      andThen (if w[1] then exec .fedge a else .next a) fun b =>
      andThen (if w[2] then exec .mstick b else .next b) fun c =>
      andThen (if w[3] then exec .bedge c else .next c) fun d =>
      if w[4] then foregroundPart w d else .next d) ∧
  (∀ (w : StimWord) (s : State), w.toNat % 32 = 0 → andThen (eventPart w s) (foregroundPart w) = .next s) ∧
  (∀ (w : StimWord) (s : State), s.phase.toNat ≤ 12 → ∃ t, andThen (eventPart w s) (foregroundPart w) = .next t)

/-- 30_encoding.md R73 and R74: the one operation of a foreground step. -/
def Obligations.ForegroundStepSelectsOneOperation : Prop :=
  ∀ w : StimWord,
    (∀ queued, decodeForeground 12#4 queued w = .ok .phStalled) ∧
    (∀ code : PhaseCode, code.toNat < 12 → decodeForeground code true w = .ok (.send (w[6]))) ∧
    decodeForeground 0#4 false w = .ok .phInit ∧
    decodeForeground 1#4 false w = .ok .phClear ∧
    decodeForeground 2#4 false w = .ok .phStart ∧
    decodeForeground 3#4 false w = .ok (.phWait (w[5]) (w.extractLsb' 7 12)) ∧
    decodeForeground 4#4 false w = .ok .phDac ∧
    decodeForeground 5#4 false w = .ok .phCompute ∧
    decodeForeground 6#4 false w = .ok .phMask ∧
    decodeForeground 7#4 false w = .ok .phRenderR ∧
    decodeForeground 8#4 false w = .ok .phRenderF ∧
    decodeForeground 9#4 false w = .ok .phUnmask ∧
    decodeForeground 10#4 false w = .ok .phDelayArm ∧
    decodeForeground 11#4 false w = .ok .phDelayWait

/-- 30_encoding.md R84: at `PHASE` 13, 14 or 15 a foreground step is refused, whatever is queued. -/
def Obligations.ReservedPhaseRefusesForeground : Prop :=
  ∀ (s : State) (w : StimWord), 13 ≤ s.phase.toNat → w[4] = true →
    foregroundPart w s = .refused (.reservedPhase s.phase)

/-- 30_encoding.md R77 and R82: the frame map. After the init list a frame is what its match and mask say; a command frame before the end of the
list is an `INIT_CMD` whatever its value. -/
def Obligations.FrameMapByPositionAndValue : Prop :=
  (∀ f : Frame, f &&& 0x1F8#9 = 0x0B0#9 → decodeFrame true f = .ok (.pageSel (f.extractLsb' 0 3))) ∧
  (∀ f : Frame, f &&& 0x1F0#9 = 0x000#9 → decodeFrame true f = .ok (.colLo (f.extractLsb' 0 4))) ∧
  (∀ f : Frame, f &&& 0x1F0#9 = 0x010#9 → decodeFrame true f = .ok (.colHi (f.extractLsb' 0 4))) ∧
  (∀ (initDone : Bool) (f : Frame), f &&& 0x100#9 = 0x100#9 → decodeFrame initDone f = .ok (.data (f.extractLsb' 0 8))) ∧
  (∀ f : Frame, f &&& 0x100#9 = 0x000#9 → decodeFrame false f = .ok (.initCmd (f.extractLsb' 0 8))) ∧
  (∀ f : Frame, legalFrame f = false → decodeFrame true f = .error (.unknownCommand (f.extractLsb' 0 8)))

/-- Decode and encode agree: the word of a well-formed operation, with its operands at every value, selects exactly that operation. -/
def Obligations.DecodeEncodeRoundTrip : Prop :=
  ∀ i : Instr, i.wellFormed = true → ∃ w, encode i = some w ∧ decode w = .ok [i]

/-- Words of each family, written out from 30_encoding.md R70, R74, R77 and the examples of 95_test_vectors.md section 2.7. -/
def Obligations.WrittenOutWordsDecode : Prop :=
  decode (.strobes 0b0000000000000000001#19) = .ok [.tick] ∧
  decode (.strobes 0b0000000000000001111#19) = .ok [.tick, .fedge, .mstick, .bedge] ∧
  decode (.foreground 0b0001#4 true 0b0000000000001010000#19) = .ok [.send true] ∧
  decode (.foreground 0b0011#4 false 0b1000000000000110000#19) = .ok [.phWait true 0x800#12] ∧
  decode (.foreground 0b1001#4 false 0b0000000000000010000#19) = .ok [.phUnmask] ∧
  decode (.frame false 0b010110011#9) = .ok [.initCmd 0xB3#8] ∧
  decode (.frame true 0b010110011#9) = .ok [.pageSel 3#3] ∧
  decode (.frame true 0b000001010#9) = .ok [.colLo 10#4] ∧
  decode (.frame true 0b000010111#9) = .ok [.colHi 7#4] ∧
  decode (.frame true 0b101010010#9) = .ok [.data 0x52#8] ∧
  decode (.frame true 0b010111000#9) = .error (.unknownCommand 0xB8#8)

/-- 30_encoding.md R70: when `FG` = 0, bits 18:5 are ignored. -/
def Obligations.ReadyBitsIgnoredWithoutForeground : Prop :=
  ∀ (w v : StimWord) (s : State), w[4] = false → w.extractLsb' 0 5 = v.extractLsb' 0 5 → globalStep w s = globalStep v s

/-! ### The capture unit -/

/-- 41_capture.md R101: `TICK`, with its `OVF` (R106) when the counter wraps. -/
def Obligations.TickAdvancesOrOverflows : Prop :=
  (∀ w : StimWord, Instr.tick ∈ decodeEvents w ↔ w[0] = true) ∧
  ∀ s : State,
    (s.cntRun = false → exec .tick s = .next s) ∧
    (s.cntRun = true → s.cnt ≠ 0xFFFFFFFF#32 → exec .tick s = .next { s with cnt := s.cnt + 1#32 }) ∧
    (s.cntRun = true → s.cnt = 0xFFFFFFFF#32 →
      exec .tick s = exec .ovf { s with cnt := 0#32 } ∧
      exec .tick s =
        .next { s with cnt := 0#32, armed := false, cntRun := false, diagTrace := s.diagTrace ++ [2#2] })

/-- 41_capture.md R106, 60_exceptions.md R205: `OVF` reports code 2 and forces Idle, whatever the session was; `HZ`, `CNT`, `START_TICKS` and
`EDGE_PEND` stay. It has no word of its own; a tick that wraps the running counter performs it. (That the counter stops is the spec's decision D6.) -/
def Obligations.OverflowForcesIdle : Prop :=
  encode .ovf = none ∧
  (∀ s : State, exec .ovf s = .next { s with armed := false, cntRun := false, diagTrace := s.diagTrace ++ [2#2] }) ∧
  (∀ s : State, s.cntRun = true → s.cnt = 0xFFFFFFFF#32 → exec .tick s = exec .ovf { s with cnt := 0#32 })

/-- 41_capture.md R102, R103, R104 and 60_exceptions.md R204: what one edge on the frequency input does, masked or not, arming or closing.
(What a masked edge does is the spec's decision D8.) -/
def Obligations.FedgeArmsClosesOrIsMasked : Prop :=
  (∀ w : StimWord, Instr.fedge ∈ decodeEvents w ↔ w[1] = true) ∧
  ∀ s : State,
    (s.edgeMask = true → s.params.maskedEdge = .latch → exec .fedge s = .next { s with edgePend := true }) ∧
    (s.edgeMask = true → s.params.maskedEdge = .drop → exec .fedge s = .next s) ∧
    (s.edgeMask = false → s.armed = false →
      exec .fedge s = .next { s with cnt := 0#32, startTicks := 0#32, cntRun := true, armed := true }) ∧
    (s.edgeMask = false → s.armed = true → s.cnt - s.startTicks = 0#32 →
      exec .fedge s = .next { s with cntRun := false, armed := false, diagTrace := s.diagTrace ++ [1#2] }) ∧
    (s.edgeMask = false → s.armed = true → s.cnt - s.startTicks ≠ 0#32 →
      exec .fedge s =
        .next { s with
          cntRun := false
          armed := false
          hz := BitVec.ofNat 32 ((s.params.fTick.hertz / (s.cnt - s.startTicks).toNat + 1) % 2 ^ 32) })

/-- 41_capture.md R105: the reading is `F_TICK / T + 1` exactly, the reduction modulo 2^32 never changes it, and it lies between 1 and
`F_TICK + 1`. -/
def Obligations.FrequencyReadingIsExact : Prop :=
  ∀ (f : TickRate) (t : BitVec 32), t ≠ 0#32 →
    (frequencyReading f t).toNat = f.hertz / t.toNat + 1 ∧
    1 ≤ (frequencyReading f t).toNat ∧ (frequencyReading f t).toNat ≤ f.hertz + 1 ∧
    (t = 1#32 → (frequencyReading f t).toNat = f.hertz + 1) ∧
    (f.hertz < t.toNat → frequencyReading f t = 1#32)

/-- 41_capture.md R108, 10_state.md R23, R24: after every step the counter runs exactly while a session is Armed, and `START_TICKS` is 0. -/
def Obligations.CaptureFlagsAgree : Prop :=
  ∀ s t : State, CaptureInv s → step s = .next t → CaptureInv t

/-- 41_capture.md R110: the closed form of `n` ticks with no other event between them. -/
def Obligations.TickRunClosedForm : Prop :=
  ∀ (n : Nat) (s : State), s.wire = [] →
    run n (withInputs (List.replicate n (.stim 0x00001#19)) s) =
      .next
        (if s.cntRun = false then s
        else if s.cnt.toNat + n ≤ 0xFFFFFFFF then { s with cnt := s.cnt + BitVec.ofNat 32 n }
        else { s with cnt := 0#32, armed := false, cntRun := false, diagTrace := s.diagTrace ++ [2#2] })

/-- 41_capture.md R107: an overflow and an edge in one step. The overflow is handled first; the edge then arms a new session (or is kept, when
masked under `LATCH`), and no frequency is published. -/
def Obligations.OverflowBeforeSecondEdge : Prop :=
  ∀ (s : State) (rest : List Input), s.inputs = .stim 0x00003#19 :: rest → s.wire = [] → s.cntRun = true → s.cnt = 0xFFFFFFFF#32 →
    (s.edgeMask = false →
      step s =
        .next { s with
          inputs := rest, cnt := 0#32, startTicks := 0#32, armed := true, cntRun := true, diagTrace := s.diagTrace ++ [2#2] }) ∧
    (s.edgeMask = true → s.params.maskedEdge = .latch →
      step s =
        .next { s with
          inputs := rest, cnt := 0#32, armed := false, cntRun := false, edgePend := true, diagTrace := s.diagTrace ++ [2#2] })

/-- 10_state.md R25: `HZ` changes only where an Armed session is closed with a nonzero elapsed count, and then to that count's reading. -/
def Obligations.ReadingChangesOnlyOnClosingEdge : Prop :=
  ∀ s t : State, TakesStimulus s → step s = .next t → t.hz ≠ s.hz →
    s.armed = true ∧ ∃ n : BitVec 32, n ≠ 0#32 ∧ (n = s.cnt - s.startTicks ∨ n = s.cnt + 1#32 - s.startTicks) ∧
      t.hz = frequencyReading s.params.fTick n

/-- 20_memory.md R65: while the edge event stays masked the reading does not change, no session is armed, and an Armed session ends only by an
overflow. -/
def Obligations.MaskWindowFreezesReading : Prop :=
  ∀ s t : State, TakesStimulus s → step s = .next t → s.edgeMask = true → t.edgeMask = true →
    t.hz = s.hz ∧ t.startTicks = s.startTicks ∧ (t.armed = true → s.armed = true) ∧
    (s.armed = true → t.armed = false → s.cntRun = true ∧ s.cnt = 0xFFFFFFFF#32)

/-! ### The debounce unit -/

/-- 42_debounce.md R120: `MSTICK` adds one modulo 2^16. -/
def Obligations.MstickCountsModulo : Prop :=
  (∀ w : StimWord, Instr.mstick ∈ decodeEvents w ↔ w[2] = true) ∧
  (∀ s : State, exec .mstick s = .next { s with ms := BitVec.ofNat 16 ((s.ms.toNat + 1) % 2 ^ 16) }) ∧
  (∀ s : State, s.ms = 65535#16 → exec .mstick s = .next { s with ms := 0#16 })

/-- 42_debounce.md R121, R122: a button edge is accepted exactly at a wrapping distance of at least 50; a rejected edge changes nothing. (That an
entry of `btn_trace` holds `MS` is the model's choice, assumption log 16.) -/
def Obligations.BedgeAcceptsFromFiftyTicks : Prop :=
  (∀ w : StimWord, Instr.bedge ∈ decodeEvents w ↔ w[3] = true) ∧
  ∀ s : State,
    (50 ≤ (s.ms - s.lastAcc).toNat → exec .bedge s = .next { s with lastAcc := s.ms, btnTrace := s.btnTrace ++ [s.ms] }) ∧
    ((s.ms - s.lastAcc).toNat < 50 → exec .bedge s = .next s)

/-- 42_debounce.md R125: in one word the tick comes first, so the edge is stamped with the counter after the tick. (That an entry of `btn_trace`
holds `MS` is the model's choice, assumption log 16.) -/
def Obligations.ButtonEdgeStampedAfterTick : Prop :=
  ∀ (s : State) (rest : List Input), s.inputs = .stim 0x0000C#19 :: rest → s.wire = [] →
    step s =
      .next
        (if 50 ≤ (s.ms + 1#16 - s.lastAcc).toNat then
          { s with inputs := rest, ms := s.ms + 1#16, lastAcc := s.ms + 1#16, btnTrace := s.btnTrace ++ [s.ms + 1#16] }
        else { s with inputs := rest, ms := s.ms + 1#16 })

/-- The source's debounce property (42_debounce.md section 3) over whole steps: in any step at most one edge is accepted, at a distance of at
least 50 from the last accepted one, and otherwise `LAST_ACC` is unchanged. (That an entry of `btn_trace` holds `MS` is the model's choice,
assumption log 16.) -/
def Obligations.AcceptedEdgesAreFiftyApart : Prop :=
  ∀ s t : State, TakesStimulus s → step s = .next t →
    (t.btnTrace = s.btnTrace ∧ t.lastAcc = s.lastAcc) ∨
    (t.btnTrace = s.btnTrace ++ [t.ms] ∧ t.lastAcc = t.ms ∧ 50 ≤ (t.ms - s.lastAcc).toNat)

/-! ### The two contexts -/

/-- 60_exceptions.md R210, R212; 10_state.md R47: an event operation always completes, depends on the event side and the mask alone, and leaves
every foreground register, the display, the bus and the other outputs as they are. -/
def Obligations.EventsStayOnTheirSide : Prop :=
  ∀ (i : Instr) (s t : State), Instr.context i = .event → SameEventSide s t →
    ∃ s' t', exec i s = .next s' ∧ exec i t = .next t' ∧ SameEventSide s' t' ∧
      SameForegroundSide s s' ∧ SameOutside s s' ∧ SameForegroundSide t t' ∧ SameOutside t t'

/-- 10_state.md R47: a foreground operation leaves the event context's registers, the display's state, display memory and the inputs as they are;
`PH_UNMASK` alone may write the capture registers, and it leaves the other event registers and the foreground's data. -/
def Obligations.ForegroundStaysOnItsSide : Prop :=
  (∀ (i : Instr) (s t : State), Instr.context i = .foreground → i ≠ .phUnmask → exec i s = .next t →
    t.armed = s.armed ∧ t.cnt = s.cnt ∧ t.cntRun = s.cntRun ∧ t.startTicks = s.startTicks ∧ t.hz = s.hz ∧ t.ms = s.ms ∧
    t.lastAcc = s.lastAcc ∧ t.edgePend = s.edgePend ∧ t.btnTrace = s.btnTrace ∧ (i ≠ .phMask → t.edgeMask = s.edgeMask) ∧
    t.dev = s.dev ∧ t.inputs = s.inputs ∧ t.envStep = s.envStep ∧ t.params = s.params) ∧
  (∀ s t : State, exec .phUnmask s = .next t →
    t.ms = s.ms ∧ t.lastAcc = s.lastAcc ∧ t.btnTrace = s.btnTrace ∧ t.txq = s.txq ∧ t.sample = s.sample ∧ t.dacData = s.dacData ∧
    t.ohms = s.ohms ∧ t.delayT0 = s.delayT0 ∧ t.waitCnt = s.waitCnt ∧ t.csN = s.csN ∧ t.dc = s.dc ∧ t.busTrace = s.busTrace ∧
    t.dacTrace = s.dacTrace ∧ t.adcTrace = s.adcTrace ∧ SameOutside s t)

/-- 60_exceptions.md R209(d): a step emits at most one diagnostic from its event part (1 or 2) and then at most one from its foreground part
(1 or 3). -/
def Obligations.AtMostTwoDiagnosticsInOrder : Prop :=
  ∀ s t : State, TakesStimulus s → step s = .next t →
    ∃ e f, t.diagTrace = s.diagTrace ++ e ++ f ∧ (e = [] ∨ e = [1#2] ∨ e = [2#2]) ∧ (f = [] ∨ f = [1#2] ∨ f = [3#2])

/-- 00_scope.md R11, 20_memory.md R67: the traces only grow, and the parameters, the two ROMs among them, never change. -/
def Obligations.TracesGrowAndParametersStay : Prop :=
  ∀ s t : State, step s = .next t →
    t.params = s.params ∧
    (TakesStimulus s →
      s.busTrace <+: t.busTrace ∧ s.diagTrace <+: t.diagTrace ∧ s.btnTrace <+: t.btnTrace ∧ s.dacTrace <+: t.dacTrace ∧
      s.adcTrace <+: t.adcTrace)

/-! ### The display driver -/

/-- 43_display.md R134: `SEND` is selected by a foreground step with frames queued (and no stop); it sends the head frame when the bus is ready,
else it counts a poll, and stalls at a finite limit. (That the pins are idle after a send and as they were after a poll is read from R133 and
R134, DEDUCED, assumption log 10; that the frame waits on the model's own wire is the model's choice, log 6.) -/
def Obligations.SendShiftsHeadOrPolls : Prop :=
  (∀ (code : PhaseCode) (w : StimWord), code.toNat < 12 → decodeForeground code true w = .ok (.send (w[6]))) ∧
  (∀ (s : State) (f : Frame) (rest : List Frame), s.txq = f :: rest →
    exec (.send true) s =
      .next { s with
        busTrace := s.busTrace ++ [f], wire := s.wire ++ [f], txq := rest, waitCnt := 0, csN := true, dc := true } ∧
    (limitReached s.params.waitLimit (s.waitCnt + 1) = false →
      exec (.send false) s = .next { s with waitCnt := s.waitCnt + 1 }) ∧
    (limitReached s.params.waitLimit (s.waitCnt + 1) = true →
      exec (.send false) s =
        .next { s with waitCnt := s.waitCnt + 1, diagTrace := s.diagTrace ++ [3#2], phase := 12#4 })) ∧
  (∀ n, limitReached .infinity n = false) ∧
  (∀ n m h, limitReached (.polls m h) n = true ↔ m ≤ n)

/-- With an empty queue `SEND` has no frame to send and is never selected (30_encoding.md R73); executed all the same it is refused: the model's
choice, assumption log 11. -/
def Obligations.SendNeedsAQueuedFrame : Prop :=
  (∀ (s : State) (busRdy : Bool), s.txq = [] → exec (.send busRdy) s = .refused .sendWithoutFrame) ∧
  (∀ (code : PhaseCode) (w : StimWord) (busRdy : Bool), decodeForeground code false w ≠ .ok (.send busRdy))

/-- 43_display.md R133: the seven steps of one frame's transfer, the byte most significant bit first, and the pins idle at the end. -/
def Obligations.PinSequenceIsMsbFirst : Prop :=
  ∀ (dc : Bool) (b : Byte) (s : State),
    pinSequence (if dc then dataFrame b else cmdFrame b) =
      [.csN true, .dc dc, .csN false, .waitReady,
        .shiftOut (b[7]), .shiftOut (b[6]), .shiftOut (b[5]), .shiftOut (b[4]),
        .shiftOut (b[3]), .shiftOut (b[2]), .shiftOut (b[1]), .shiftOut (b[0]),
        .csN true, .dc true] ∧
    drivePins (pinSequence (if dc then dataFrame b else cmdFrame b)) s = { s with csN := true, dc := true }

/-- 43_display.md R135, R136, 30_encoding.md R79, R80: the frames of a cursor position read back as the page masked to 3 bits and the two
nibbles of the offset column, low nibble first. -/
def Obligations.CursorFramesReadBack : Prop :=
  ∀ (p : Params) (page x : Byte),
    (cursorFrames p page x).map (decodeFrame true) =
      [.ok (.pageSel (BitVec.ofNat 3 (page.toNat % 8))),
        .ok (.colLo (BitVec.ofNat 4 ((x.toNat + p.colOrigin.toNat) % 256 % 16))),
        .ok (.colHi (BitVec.ofNat 4 ((x.toNat + p.colOrigin.toNat) % 256 / 16)))]

/-- 43_display.md R142, R143: exactly the characters that start at or before column 120 are drawn, each whole, at a pitch of 8. -/
def Obligations.TextClipsAtGlyphBoundary : Prop :=
  ∀ (p : Params) (page : Byte) (x : Nat) (s : List CharCode),
    textFrames p page x s =
      (s.take (drawnFrom x)).zipIdx.flatMap fun ck => glyphFrames p page (BitVec.ofNat 8 (x + 8 * ck.2)) ck.1

/-- 43_display.md R141, 44_sampling.md R169: the lengths of the frame lists and of the two lines. -/
def Obligations.FrameCountsOfTheDriver : Prop :=
  ∀ p : Params,
    (initFrames p).length = 29 ∧ (clearFrames p).length = 1048 ∧
    (∀ page x c, (glyphFrames p page x c).length = 11) ∧
    (∀ page x s, (textFrames p page x s).length = 11 * min s.length (drawnFrom x)) ∧
    (∀ page ohms, (textFrames p page 0 (lineR ohms)).length = 11 * min 16 (8 + max 5 (dec ohms).length)) ∧
    (∀ page hz, (textFrames p page 0 (lineF hz)).length = 11 * (6 + max 5 (dec hz).length)) ∧
    (∀ page (ohms : BitVec 32), ohms.toNat ≤ 99999 → (textFrames p page 0 (lineR ohms)).length = 143)

/-- 43_display.md R131, R132, R135, R136, R137, R138, R139, R140, R142, 93_implementation_defined.md U17, U18, U19: a driver operation called by
itself expands to its frames inside its operand range and is refused outside it. -/
def Obligations.DriverExpandsOrRefuses : Prop :=
  ∀ (p : Params) (page x b : Byte) (s : List Byte),
    DspOp.expand p (.cmd b) = .ok [cmdFrame b] ∧ DspOp.expand p (.data b) = .ok [dataFrame b] ∧
    DspOp.expand p (.setPage page) = .ok [cmdFrame (0xB0#8 ||| (page &&& 0x07#8))] ∧
    (x.toNat ≤ 127 →
      DspOp.expand p (.setCol x) =
        .ok [cmdFrame (0x00#8 ||| ((x + p.colOrigin.setWidth 8) &&& 0x0F#8)),
          cmdFrame (0x10#8 ||| (((x + p.colOrigin.setWidth 8) >>> 4) &&& 0x0F#8))]) ∧
    (127 < x.toNat → DspOp.expand p (.setCol x) = .error .operandOutOfRange) ∧
    (x.toNat ≤ 120 → b.toNat < 0x80 →
      DspOp.expand p (.glyph page x b) =
        .ok (setPageFrames page ++ setColFrames p x ++
          (List.range 8).map fun i => dataFrame (glyphRead p (8 * b.toNat + i)))) ∧
    (120 < x.toNat ∨ 0x80 ≤ b.toNat → DspOp.expand p (.glyph page x b) = .error .operandOutOfRange) ∧
    ((∀ c ∈ s, c.toNat < 0x80) →
      DspOp.expand p (.text page x s) = .ok (textFrames p page x.toNat (s.map fun c => c.setWidth 7)) ∧
        (120 < x.toNat → DspOp.expand p (.text page x s) = .ok [])) ∧
    ((∃ c ∈ s, 0x80 ≤ c.toNat) → DspOp.expand p (.text page x s) = .error .operandOutOfRange) ∧
    DspOp.expand p .clear =
      .ok ((List.range 8).flatMap fun q =>
        setPageFrames (BitVec.ofNat 8 q) ++ setColFrames p 0#8 ++ List.replicate 128 (dataFrame 0#8)) ∧
    DspOp.expand p .init = .ok ((List.range 29).map fun i => cmdFrame (initRead p i))

/-! ### The display device -/

/-- 20_memory.md R60: before the 29th init frame every command frame only counts, and a data frame is refused. (That the cursor operations count
too is assumption log 12.) -/
def Obligations.InitFramesOnlyCount : Prop :=
  ∀ s : State, s.dev.initCount < 29 →
    (∀ b, exec (.initCmd b) s = .next { s with dev := { s.dev with initCount := s.dev.initCount + 1 } }) ∧
    (∀ p, exec (.pageSel p) s = .next { s with dev := { s.dev with initCount := s.dev.initCount + 1 } }) ∧
    (∀ n, exec (.colLo n) s = .next { s with dev := { s.dev with initCount := s.dev.initCount + 1 } }) ∧
    (∀ n, exec (.colHi n) s = .next { s with dev := { s.dev with initCount := s.dev.initCount + 1 } }) ∧
    (∀ b, exec (.data b) s = .refused .dataBeforeInit)

/-- 20_memory.md R61, R63: after the init frames a command is decoded by its value; each nibble command replaces one half of the pointer and leaves
the other; any other byte is refused. -/
def Obligations.CommandsDecodeByValue : Prop :=
  ∀ s : State, 29 ≤ s.dev.initCount →
    (∀ p, exec (.pageSel p) s = .next { s with dev := { s.dev with page := p } }) ∧
    (∀ n : BitVec 4, exec (.colLo n) s = .next { s with dev := { s.dev with col := s.dev.col.extractLsb' 4 4 ++ n } }) ∧
    (∀ n : BitVec 4, exec (.colHi n) s = .next { s with dev := { s.dev with col := n ++ s.dev.col.extractLsb' 0 4 } }) ∧
    (∀ b : Byte, b.extractLsb' 3 5 = 0b10110#5 → exec (.initCmd b) s = exec (.pageSel (b.extractLsb' 0 3)) s) ∧
    (∀ b : Byte, b.extractLsb' 4 4 = 0b0000#4 → exec (.initCmd b) s = exec (.colLo (b.extractLsb' 0 4)) s) ∧
    (∀ b : Byte, b.extractLsb' 4 4 = 0b0001#4 → exec (.initCmd b) s = exec (.colHi (b.extractLsb' 0 4)) s) ∧
    (∀ b : Byte, b.extractLsb' 3 5 ≠ 0b10110#5 → b.extractLsb' 4 4 ≠ 0b0000#4 → b.extractLsb' 4 4 ≠ 0b0001#4 →
      exec (.initCmd b) s = .refused (.unknownCommand b))

/-- 20_memory.md R62, R63: a data frame inside the 128 columns writes that one byte of display memory, leaves every other byte, and moves the
pointer one column on; outside them it is refused. -/
def Obligations.DataWritesOneByteAndAdvances : Prop :=
  ∀ (s : State) (v : Byte), 29 ≤ s.dev.initCount →
    (s.params.colOrigin.toNat ≤ s.dev.col.toNat → s.dev.col.toNat - s.params.colOrigin.toNat ≤ 127 →
      ∃ t, exec (.data v) s = .next t ∧ t = { s with dev := t.dev } ∧
        t.dev.initCount = s.dev.initCount ∧ t.dev.page = s.dev.page ∧
        t.dev.col = BitVec.ofNat 8 ((s.dev.col.toNat + 1) % 256) ∧
        t.dev.pixelColumn s.dev.page (BitVec.ofNat 7 (s.dev.col.toNat - s.params.colOrigin.toNat)) = v ∧
        ∀ (q : Page) (y : Column),
          q ≠ s.dev.page ∨ y.toNat ≠ s.dev.col.toNat - s.params.colOrigin.toNat →
            t.dev.pixelColumn q y = s.dev.pixelColumn q y) ∧
    (s.dev.col.toNat < s.params.colOrigin.toNat ∨ 127 < s.dev.col.toNat - s.params.colOrigin.toNat →
      exec (.data v) s = .refused .dataOutsideColumns)

/-- 43_display.md R137: once the 11 frames of a glyph are consumed, its 8 bytes stand in its 8 columns, every other byte of display memory is as it
was, and the cursor is left just behind it. -/
def Obligations.GlyphLandsInItsColumns : Prop :=
  ∀ (p : Params) (page x : Byte) (c : CharCode) (d : Device), x.toNat ≤ 120 → 29 ≤ d.initCount →
    ∃ d', Device.feed p.colOrigin (glyphFrames p page x c) d = .ok d' ∧ d'.initCount = d.initCount ∧
      d'.page = BitVec.ofNat 3 (page.toNat % 8) ∧ d'.col.toNat = x.toNat + 8 + p.colOrigin.toNat ∧
      (∀ i, i < 8 → d'.pixelColumn d'.page (BitVec.ofNat 7 (x.toNat + i)) = glyphColumn p c i) ∧
      ∀ (q : Page) (y : Column), q ≠ d'.page ∨ y.toNat < x.toNat ∨ x.toNat + 8 ≤ y.toNat →
        d'.pixelColumn q y = d.pixelColumn q y

/-- 43_display.md R139: once the 1048 frames of the clear are consumed every byte of display memory is 0 and the cursor is at (7, 128). -/
def Obligations.ClearZeroesTheScreen : Prop :=
  ∀ (p : Params) (d : Device), 29 ≤ d.initCount →
    ∃ d', Device.feed p.colOrigin (clearFrames p) d = .ok d' ∧ d'.initCount = d.initCount ∧
      d'.page = 7#3 ∧ d'.col.toNat = 128 + p.colOrigin.toNat ∧
      ∀ (q : Page) (y : Column), d'.pixelColumn q y = 0#8

/-- 43_display.md R142, R143, 70_reset_and_hazards.md R243: once the frames of a line are consumed, each drawn character's glyph stands in its
columns, and every other byte of display memory, the rest of the page among them, is as it was. -/
def Obligations.TextLandsOnTheScreen : Prop :=
  ∀ (p : Params) (page : Byte) (x : Nat) (s : List CharCode) (d : Device), 29 ≤ d.initCount →
    ∃ d', Device.feed p.colOrigin (textFrames p page x s) d = .ok d' ∧ d'.initCount = d.initCount ∧
      (∀ (k i : Nat) (c : CharCode), (s.take (drawnFrom x))[k]? = some c → i < 8 →
        d'.pixelColumn (BitVec.ofNat 3 (page.toNat % 8)) (BitVec.ofNat 7 (x + 8 * k + i)) = glyphColumn p c i) ∧
      ∀ (q : Page) (y : Column),
        q ≠ BitVec.ofNat 3 (page.toNat % 8) ∨ y.toNat < x ∨ x + 8 * min s.length (drawnFrom x) ≤ y.toNat →
          d'.pixelColumn q y = d.pixelColumn q y

/-! ### The sampling orchestrator -/

/-- 44_sampling.md R163, R164: the two start-up phases queue the init list and the clear. -/
def Obligations.StartupPhasesQueueTheirFrames : Prop :=
  ∀ s : State,
    exec .phInit s =
      .next { s with txq := s.txq ++ (List.range 29).map fun i => cmdFrame (initRead s.params i), phase := 1#4 } ∧
    exec .phClear s = .next { s with txq := s.txq ++ clearFrames s.params, phase := 2#4 }

/-- 44_sampling.md R165, R167, R168: start a conversion, pass the code to the analog output, compute the resistance. -/
def Obligations.AnalogPhasesStartPassAndCompute : Prop :=
  (∀ s : State, exec .phStart s = .next { s with adcTrace := s.adcTrace ++ [()], waitCnt := 0, phase := 3#4 }) ∧
  (∀ s : State,
    exec .phDac s = .next { s with dacData := s.sample, dacTrace := s.dacTrace ++ [s.sample], phase := 5#4 }) ∧
  (∀ s : State, exec .phCompute s = .next { s with ohms := ohmsFn s.params s.sample, phase := 6#4 }) ∧
  (∀ s : State, s.params.ohmsTable = [] →
    exec .phCompute s = .next { s with ohms := BitVec.ofNat 32 (s.sample.toNat * 5000 / 4095), phase := 6#4 })

/-- 44_sampling.md R166: the wait reads the code when it is ready, else counts a poll, and stalls at a finite limit. -/
def Obligations.WaitReadsOrPolls : Prop :=
  ∀ (s : State) (code : AnalogCode),
    exec (.phWait true code) s = .next { s with sample := code, waitCnt := 0, phase := 4#4 } ∧
    (limitReached s.params.waitLimit (s.waitCnt + 1) = false →
      exec (.phWait false code) s = .next { s with waitCnt := s.waitCnt + 1 }) ∧
    (limitReached s.params.waitLimit (s.waitCnt + 1) = true →
      exec (.phWait false code) s =
        .next { s with waitCnt := s.waitCnt + 1, diagTrace := s.diagTrace ++ [3#2], phase := 12#4 })

/-- 44_sampling.md R168: the default `OHMS_FN` is the exact floor, at most 5000, and monotone in the code. -/
def Obligations.DefaultOhmsIsMonotoneFloor : Prop :=
  ∀ a b : AnalogCode,
    (ohmsDefault a).toNat = a.toNat * 5000 / 4095 ∧ (ohmsDefault a).toNat ≤ 5000 ∧
    (a.toNat ≤ b.toNat → (ohmsDefault a).toNat ≤ (ohmsDefault b).toNat)

/-- 44_sampling.md R170, R173: mask, and unmask with the delivery of a pending edge. (Decisions D8, D23 of the spec.) -/
def Obligations.MaskAndUnmaskTheEdge : Prop :=
  ∀ s : State,
    exec .phMask s = .next { s with edgeMask := true, phase := 7#4 } ∧
    (s.edgePend = false → exec .phUnmask s = .next { s with edgeMask := false, phase := 10#4 }) ∧
    (s.edgePend = true → s.armed = false →
      exec .phUnmask s =
        .next { s with
          edgeMask := false, edgePend := false, phase := 10#4,
          cnt := 0#32, startTicks := 0#32, cntRun := true, armed := true }) ∧
    (s.edgePend = true → s.armed = true → s.cnt - s.startTicks = 0#32 →
      exec .phUnmask s =
        .next { s with
          edgeMask := false, edgePend := false, phase := 10#4,
          cntRun := false, armed := false, diagTrace := s.diagTrace ++ [1#2] }) ∧
    (s.edgePend = true → s.armed = true → s.cnt - s.startTicks ≠ 0#32 →
      exec .phUnmask s =
        .next { s with
          edgeMask := false, edgePend := false, phase := 10#4,
          cntRun := false, armed := false,
          hz := BitVec.ofNat 32 ((s.params.fTick.hertz / (s.cnt - s.startTicks).toNat + 1) % 2 ^ 32) })

/-- 44_sampling.md R169, R171, R172: the two render phases queue their line, written with the bytes of R169. -/
def Obligations.RenderPhasesQueueTheirLine : Prop :=
  ∀ s : State,
    exec .phRenderR s =
      .next { s with
        txq := s.txq ++ textFrames s.params s.params.pageR 0
          ([0x52#7, 0x3A#7, 0x20#7] ++ pad5 (dec s.ohms) ++ [0x20#7, 0x4F#7, 0x68#7, 0x6D#7, 0x73#7])
        phase := 8#4 } ∧
    exec .phRenderF s =
      .next { s with
        txq := s.txq ++ textFrames s.params s.params.pageF 0
          ([0x46#7, 0x3A#7, 0x20#7] ++ pad5 (dec s.hz) ++ [0x20#7, 0x48#7, 0x7A#7])
        phase := 9#4 }

/-- 44_sampling.md R174, R175: note the time, then leave exactly at a wrapping distance of at least 100 ticks. -/
def Obligations.PacingDelayLastsHundredTicks : Prop :=
  ∀ s : State,
    exec .phDelayArm s = .next { s with delayT0 := s.ms, phase := 11#4 } ∧
    (100 ≤ (s.ms - s.delayT0).toNat → exec .phDelayWait s = .next { s with phase := 2#4 }) ∧
    ((s.ms - s.delayT0).toNat < 100 → exec .phDelayWait s = .next s)

/-- 44_sampling.md R176: a foreground step at `PH_STALLED` does nothing, whatever is queued. -/
def Obligations.StalledForegroundDoesNothing : Prop :=
  (∀ s : State, exec .phStalled s = .next s) ∧
  (∀ (s : State) (w : StimWord), s.phase = 12#4 → w[4] = true → foregroundPart w s = .next s)

/-- 44_sampling.md R176, 60_exceptions.md R206: once stalled, always stalled: no step moves the sequencer, its queue, the bus or the analog
output, and no second stall is reported. -/
def Obligations.StallIsForEver : Prop :=
  ∀ s t : State, TakesStimulus s → s.phase = 12#4 → step s = .next t →
    SameForegroundSide s t ∧ ∃ e, t.diagTrace = s.diagTrace ++ e ∧ 3#2 ∉ e

/-- 00_scope.md R10, 44_sampling.md R169: `dec` writes the decimal digits of the value, at least one and no leading zero. -/
def Obligations.DecimalDigitsAreTheValue : Prop :=
  ∀ v : BitVec 32,
    (dec v).foldl (fun n c => 10 * n + (c.toNat - 0x30)) 0 = v.toNat ∧
    (∀ c ∈ dec v, 0x30 ≤ c.toNat ∧ c.toNat ≤ 0x39) ∧
    1 ≤ (dec v).length ∧ (dec v).length ≤ 10 ∧
    ((dec v).head? = some 0x30#7 → dec v = [0x30#7])

/-- 44_sampling.md R161, 30_encoding.md R73: in one step `PHASE` stays, moves to its successor, or stalls at a finite limit in a wait; while frames
are queued it never moves on. -/
def Obligations.PhaseFollowsSuccessorTable : Prop :=
  ∀ s t : State, TakesStimulus s → PhaseInv s → step s = .next t →
    (t.phase = s.phase ∨ (t.phase = successor s.phase ∧ s.txq = []) ∨
      (t.phase = 12#4 ∧ s.params.waitLimit ≠ .infinity ∧ (s.txq ≠ [] ∨ s.phase = 3#4)))

/-- 44_sampling.md R170, R173, 10_state.md R27: every step keeps the mask where the refresh is, and a pending edge behind the mask. -/
def Obligations.MaskBracketsTheRefresh : Prop :=
  ∀ s t : State, MaskInv s → step s = .next t → MaskInv t

/-- 44_sampling.md R177: every step keeps the analog output, `OHMS` and `SAMPLE` of one iteration on one code. -/
def Obligations.OneCodePerIteration : Prop :=
  ∀ s t : State, IterationInv s → step s = .next t → IterationInv t

/-! ### Reset and the whole machine -/

/-- 70_reset_and_hazards.md R231: every register's value right after reset, whatever the parameters. (`DEV_PAGE`, `DEV_COL` and `FB` are
unspecified at power-on, and not stated.) -/
def Obligations.ResetStateHasTheResetValues : Prop :=
  State.reset = State.resetWith Params.default ∧
  ∀ p : Params,
    let s := State.resetWith p
    s.armed = false ∧ s.cnt = 0#32 ∧ s.cntRun = false ∧ s.startTicks = 0#32 ∧ s.hz = 0#32 ∧ s.edgeMask = false ∧ s.edgePend = false ∧
      s.ms = 0#16 ∧ s.lastAcc = 0#16 ∧ s.phase = 0#4 ∧ s.txq = [] ∧ s.sample = 0#12 ∧ s.dacData = 0#12 ∧ s.ohms = 0#32 ∧
      s.delayT0 = 0#16 ∧ s.waitCnt = 0 ∧ s.csN = true ∧ s.dc = true ∧ s.dev.initCount = 0

/-- 70_reset_and_hazards.md R231, R230: `RST` puts every register at its reset value, empties the traces, and powers the display up with no init
frame consumed. (The display's power-up with the block is assumption log 2; its unspecified state is the free values of a power-on of its own,
20_memory.md R59, log 8, log 9.) -/
def Obligations.ResetInputGivesResetValues : Prop :=
  ∀ (s : State) (rest : List Input), s.inputs = .rst :: rest →
    ∃ t, step s = .next t ∧ t.params = s.params ∧ t.inputs = rest ∧
      t.armed = false ∧ t.cnt = 0#32 ∧ t.cntRun = false ∧ t.startTicks = 0#32 ∧ t.hz = 0#32 ∧ t.edgeMask = false ∧
      t.edgePend = false ∧ t.ms = 0#16 ∧ t.lastAcc = 0#16 ∧ t.phase = 0#4 ∧ t.txq = [] ∧ t.sample = 0#12 ∧ t.dacData = 0#12 ∧
      t.ohms = 0#32 ∧ t.delayT0 = 0#16 ∧ t.waitCnt = 0 ∧ t.csN = true ∧ t.dc = true ∧ t.dev.initCount = 0 ∧
      t.dev = Device.powerOn (s.dev.powerOns + 1) ∧
      (∀ (q : Page) (y : Column), t.dev.pixelColumn q y = Config.fbPowerOn (s.dev.powerOns + 1) (128 * q.toNat + y.toNat)) ∧
      t.busTrace = [] ∧ t.diagTrace = [] ∧ t.btnTrace = [] ∧ t.dacTrace = [] ∧ t.adcTrace = []

/-- The reset state, with any parameters, meets every invariant stated here. -/
def Obligations.ResetMeetsTheInvariants : Prop :=
  ∀ p : Params,
    CaptureInv (State.resetWith p) ∧ PhaseInv (State.resetWith p) ∧ MaskInv (State.resetWith p) ∧ IterationInv (State.resetWith p) ∧
    MemoryInv (State.resetWith p) ∧ BusInv (State.resetWith p) ∧ DisplayInv (State.resetWith p)

/-- 30_encoding.md R71, R84: from a state with a legal `PHASE` every step, on every stimulus word or reset, answers a next state with a legal
`PHASE`; so no run from it is ever refused. -/
def Obligations.EveryStimulusIsAccepted : Prop :=
  (∀ s : State, PhaseInv s → ∃ t, step s = .next t ∧ PhaseInv t) ∧
  (∀ (k : Nat) (s : State), PhaseInv s → SafeRun k s)

/-- Display memory keeps its canonical form, and `DEV_INIT` its range, in every step. -/
def Obligations.DisplayMemoryStaysCanonical : Prop :=
  ∀ s t : State, MemoryInv s → step s = .next t → MemoryInv t

/-- 43_display.md R147, 30_encoding.md R82: every step keeps the bus to its shape: the init list, the clear, then whole refreshes. -/
def Obligations.BusKeepsItsShape : Prop :=
  ∀ s t : State, BusInv s → step s = .next t → BusInv t

/-- 20_memory.md R58, R63: the display follows the bus and never meets a frame without a meaning. (That the wire is empty and the device has
taken every frame sent at the end of the very step that sends it is the model's choice, assumption log 7; the wire is log 6.) -/
def Obligations.DisplayNeverRefusesAFrame : Prop :=
  ∀ s t : State, PhaseInv s → DisplayInv s → step s = .next t → DisplayInv t

/-- 43_display.md R134, 70_reset_and_hazards.md R247: with the bus ready, as many foreground steps as frames are queued send them all, in order, and
move nothing else of the block. -/
def Obligations.ReadyBusDrainsTheQueue : Prop :=
  ∀ s : State, s.phase.toNat < 12 →
    ∃ t,
      run s.txq.length (withInputs (List.replicate s.txq.length (.stim 0x00050#19)) s) = .next t ∧
      t.txq = [] ∧ t.busTrace = s.busTrace ++ s.txq ∧ t.phase = s.phase ∧ t.inputs = s.inputs ∧ SameEventSide s t ∧
      t.sample = s.sample ∧ t.dacData = s.dacData ∧ t.ohms = s.ohms ∧ t.delayT0 = s.delayT0 ∧ t.dacTrace = s.dacTrace ∧
      t.adcTrace = s.adcTrace

/-- 70_reset_and_hazards.md R232, 20_memory.md R59: with the bus ready, the first 1080 foreground steps after reset send the init list and the clear
and start the first conversion in the last of them; the display then has taken its 29 init frames and every byte of it is 0. (That nothing is left on the wire, and that the device has taken every
frame by then, is the model's choice, assumption log 7; the wire is log 6.) -/
def Obligations.StartupReachesTheFirstConversion : Prop :=
  ∀ p : Params,
    (∃ t, run 1079 (withInputs (List.replicate 1079 (.stim 0x00050#19)) (State.resetWith p)) = .next t ∧
      t.adcTrace = []) ∧
    ∃ t, run 1080 (withInputs (List.replicate 1080 (.stim 0x00050#19)) (State.resetWith p)) = .next t ∧
      t.adcTrace = [()] ∧ t.phase = 3#4 ∧ t.txq = [] ∧ t.busTrace = initFrames p ++ clearFrames p ∧ t.wire = [] ∧
      t.dev.initCount = 29 ∧ ∀ (q : Page) (y : Column), t.dev.pixelColumn q y = 0#8
end

