-- ==== Sys2Proof/Laws/Driver.lean ====
section
/-! SUPPORT. The driver's frame lists, unfolded one construct at a time. -/

namespace Sys2Proof.Machine

@[simp] theorem textFrames_nil (p : Params) (page : Byte) (col : Nat) : textFrames p page col [] = [] := by
  simp [textFrames]

/-- A character past the last starting column ends the line (43_display.md R142). -/
theorem textFrames_clipped (p : Params) (page : Byte) {col : Nat} (h : lastStartCol < col) (s : List CharCode) :
    textFrames p page col s = [] := by
  cases s <;> simp [textFrames, h]

/-- A character at or before it is drawn, and the rest follows one glyph further right. -/
theorem textFrames_drawn (p : Params) (page : Byte) {col : Nat} (h : col ≤ lastStartCol) (c : CharCode) (cs : List CharCode) :
    textFrames p page col (c :: cs) =
      glyphFrames p page (BitVec.ofNat 8 col) c ++ textFrames p page (col + glyphW) cs := by
  simp [textFrames, Nat.not_lt.mpr h]

@[simp] theorem cursorFrames_length (p : Params) (page x : Byte) : (cursorFrames p page x).length = 3 := rfl

/-- A driver operation inside its operand range expands to its frames. -/
theorem DspOp.expand_ok {p : Params} {op : DspOp} (h : op.wellFormed = true) : op.expand p = .ok (op.frames p) := by
  simp [DspOp.expand, h]

end Sys2Proof.Machine
end

