-- ==== Sys2Proof/Laws/Memory.lean ====
section
/-! SUPPORT. Display memory: a read after a write, and the canonical form is kept. -/

namespace Sys2Proof.Machine

/-- A read of the address just written gives the byte. -/
@[simp] theorem Memory.read_write_same (m : List Host.Cell) (a : Nat) (v : Byte) : Memory.read (Memory.write m a v) a = some v := by
  induction m with
  | nil => simp [Memory.write, Memory.read]
  | cons c m ih =>
    obtain ⟨b, w⟩ := c
    by_cases h₁ : a < b
    · simp [Memory.write, Memory.read, h₁]
    · by_cases h₂ : a = b <;> simp [Memory.write, Memory.read, h₁, h₂, ih]

/-- A write leaves every other address as it was. -/
theorem Memory.read_write_other (m : List Host.Cell) {a a' : Nat} (v : Byte) (h : a' ≠ a) :
    Memory.read (Memory.write m a v) a' = Memory.read m a' := by
  induction m with
  | nil => simp [Memory.write, Memory.read, h]
  | cons c m ih =>
    obtain ⟨b, w⟩ := c
    by_cases h₁ : a < b
    · simp [Memory.write, Memory.read, h₁, h]
    · by_cases h₂ : a = b
      · subst h₂; simp [Memory.write, Memory.read, h]
      · simp [Memory.write, Memory.read, h₁, h₂, ih]

/-- What a memory lists after a write: the written cell, or a cell it listed before. -/
theorem Memory.mem_write {m : List Host.Cell} {a : Nat} {v : Byte} {c : Host.Cell} (h : c ∈ Memory.write m a v) :
    c = (a, v) ∨ c ∈ m := by
  induction m with
  | nil => simpa [Memory.write] using h
  | cons d m ih =>
    obtain ⟨b, w⟩ := d
    unfold Memory.write at h
    split at h
    · simpa using h
    · split at h
      · rcases List.mem_cons.mp h with h | h
        · exact .inl h
        · exact .inr (List.mem_cons_of_mem _ h)
      · rcases List.mem_cons.mp h with h | h
        · exact .inr (by simp [h])
        · exact (ih h).imp id (List.mem_cons_of_mem _)

/-- The empty memory is in canonical form. -/
theorem Memory.wf_nil : Memory.wf [] := ⟨.nil, by simp⟩

/-- A write inside the address space keeps the canonical form. -/
theorem Memory.write_wf {m : List Host.Cell} {a : Nat} (v : Byte) (hm : Memory.wf m) (ha : a < dispPages * dispCols) :
    Memory.wf (Memory.write m a v) := by
  refine ⟨?_, fun c hc => ?_⟩
  · have hp := hm.1
    clear hm
    induction m with
    | nil => simp [Memory.write]
    | cons d m ih =>
      obtain ⟨b, w⟩ := d
      rw [List.pairwise_cons] at hp
      unfold Memory.write
      split
      · rename_i h₁
        refine List.pairwise_cons.mpr ⟨fun c hc => ?_, List.pairwise_cons.mpr hp⟩
        rcases List.mem_cons.mp hc with rfl | hc
        · exact h₁
        · exact h₁.trans (hp.1 c hc)
      · split
        · rename_i h₂; subst h₂
          exact List.pairwise_cons.mpr ⟨hp.1, hp.2⟩
        · rename_i h₁ h₂
          refine List.pairwise_cons.mpr ⟨fun c hc => ?_, ih hp.2⟩
          rcases Memory.mem_write hc with rfl | hc
          · exact lt_of_le_of_ne (Nat.le_of_not_lt h₁) (Ne.symm h₂)
          · exact hp.1 c hc
  · rcases Memory.mem_write hc with rfl | hc
    · exact ha
    · exact hm.2 c hc

/-- Every page and column has an address inside the space. -/
theorem fbAddress_lt (page : Page) (x : Column) : fbAddress page x < dispPages * dispCols := by
  have := page.isLt; have := x.isLt
  simp only [fbAddress, dispPages, dispCols]; omega

/-- Two positions of the screen share an address only if they are the same. -/
theorem fbAddress_inj {p q : Page} {x y : Column} : fbAddress p x = fbAddress q y ↔ p = q ∧ x = y := by
  have := x.isLt; have := y.isLt
  refine ⟨fun h => ?_, fun ⟨hp, hx⟩ => by rw [hp, hx]⟩
  simp only [fbAddress, dispCols] at h
  exact ⟨BitVec.eq_of_toNat_eq (by omega), BitVec.eq_of_toNat_eq (by omega)⟩

/-- The reset state's display memory is in canonical form. -/
theorem reset_memory_wf (p : Params) : Memory.wf (State.resetWith p).dev.fb := Memory.wf_nil

end Sys2Proof.Machine
end

