-- ==== Sys2Proof/Laws/State.lean ====
section
/-! SUPPORT. One lemma per field per named update of `State`, true by `rfl`, so that no later proof unfolds a record update. -/

namespace Sys2Proof.Machine

variable (s : State)

/-! ### `emitBus` -/

@[simp] theorem emitBus_params (f : Frame) : (emitBus f s).params = s.params := rfl
@[simp] theorem emitBus_armed (f : Frame) : (emitBus f s).armed = s.armed := rfl
@[simp] theorem emitBus_cnt (f : Frame) : (emitBus f s).cnt = s.cnt := rfl
@[simp] theorem emitBus_cntRun (f : Frame) : (emitBus f s).cntRun = s.cntRun := rfl
@[simp] theorem emitBus_startTicks (f : Frame) : (emitBus f s).startTicks = s.startTicks := rfl
@[simp] theorem emitBus_hz (f : Frame) : (emitBus f s).hz = s.hz := rfl
@[simp] theorem emitBus_edgeMask (f : Frame) : (emitBus f s).edgeMask = s.edgeMask := rfl
@[simp] theorem emitBus_edgePend (f : Frame) : (emitBus f s).edgePend = s.edgePend := rfl
@[simp] theorem emitBus_ms (f : Frame) : (emitBus f s).ms = s.ms := rfl
@[simp] theorem emitBus_lastAcc (f : Frame) : (emitBus f s).lastAcc = s.lastAcc := rfl
@[simp] theorem emitBus_phase (f : Frame) : (emitBus f s).phase = s.phase := rfl
@[simp] theorem emitBus_txq (f : Frame) : (emitBus f s).txq = s.txq := rfl
@[simp] theorem emitBus_sample (f : Frame) : (emitBus f s).sample = s.sample := rfl
@[simp] theorem emitBus_dacData (f : Frame) : (emitBus f s).dacData = s.dacData := rfl
@[simp] theorem emitBus_ohms (f : Frame) : (emitBus f s).ohms = s.ohms := rfl
@[simp] theorem emitBus_delayT0 (f : Frame) : (emitBus f s).delayT0 = s.delayT0 := rfl
@[simp] theorem emitBus_waitCnt (f : Frame) : (emitBus f s).waitCnt = s.waitCnt := rfl
@[simp] theorem emitBus_csN (f : Frame) : (emitBus f s).csN = s.csN := rfl
@[simp] theorem emitBus_dc (f : Frame) : (emitBus f s).dc = s.dc := rfl
@[simp] theorem emitBus_dev (f : Frame) : (emitBus f s).dev = s.dev := rfl
@[simp] theorem emitBus_wire (f : Frame) : (emitBus f s).wire = s.wire ++ [f] := rfl
@[simp] theorem emitBus_busTrace (f : Frame) : (emitBus f s).busTrace = s.busTrace ++ [f] := rfl
@[simp] theorem emitBus_diagTrace (f : Frame) : (emitBus f s).diagTrace = s.diagTrace := rfl
@[simp] theorem emitBus_btnTrace (f : Frame) : (emitBus f s).btnTrace = s.btnTrace := rfl
@[simp] theorem emitBus_dacTrace (f : Frame) : (emitBus f s).dacTrace = s.dacTrace := rfl
@[simp] theorem emitBus_adcTrace (f : Frame) : (emitBus f s).adcTrace = s.adcTrace := rfl
@[simp] theorem emitBus_inputs (f : Frame) : (emitBus f s).inputs = s.inputs := rfl
@[simp] theorem emitBus_envStep (f : Frame) : (emitBus f s).envStep = s.envStep := rfl

/-! ### `emitDiag` -/

@[simp] theorem emitDiag_params (c : DiagCode) : (emitDiag c s).params = s.params := rfl
@[simp] theorem emitDiag_armed (c : DiagCode) : (emitDiag c s).armed = s.armed := rfl
@[simp] theorem emitDiag_cnt (c : DiagCode) : (emitDiag c s).cnt = s.cnt := rfl
@[simp] theorem emitDiag_cntRun (c : DiagCode) : (emitDiag c s).cntRun = s.cntRun := rfl
@[simp] theorem emitDiag_startTicks (c : DiagCode) : (emitDiag c s).startTicks = s.startTicks := rfl
@[simp] theorem emitDiag_hz (c : DiagCode) : (emitDiag c s).hz = s.hz := rfl
@[simp] theorem emitDiag_edgeMask (c : DiagCode) : (emitDiag c s).edgeMask = s.edgeMask := rfl
@[simp] theorem emitDiag_edgePend (c : DiagCode) : (emitDiag c s).edgePend = s.edgePend := rfl
@[simp] theorem emitDiag_ms (c : DiagCode) : (emitDiag c s).ms = s.ms := rfl
@[simp] theorem emitDiag_lastAcc (c : DiagCode) : (emitDiag c s).lastAcc = s.lastAcc := rfl
@[simp] theorem emitDiag_phase (c : DiagCode) : (emitDiag c s).phase = s.phase := rfl
@[simp] theorem emitDiag_txq (c : DiagCode) : (emitDiag c s).txq = s.txq := rfl
@[simp] theorem emitDiag_sample (c : DiagCode) : (emitDiag c s).sample = s.sample := rfl
@[simp] theorem emitDiag_dacData (c : DiagCode) : (emitDiag c s).dacData = s.dacData := rfl
@[simp] theorem emitDiag_ohms (c : DiagCode) : (emitDiag c s).ohms = s.ohms := rfl
@[simp] theorem emitDiag_delayT0 (c : DiagCode) : (emitDiag c s).delayT0 = s.delayT0 := rfl
@[simp] theorem emitDiag_waitCnt (c : DiagCode) : (emitDiag c s).waitCnt = s.waitCnt := rfl
@[simp] theorem emitDiag_csN (c : DiagCode) : (emitDiag c s).csN = s.csN := rfl
@[simp] theorem emitDiag_dc (c : DiagCode) : (emitDiag c s).dc = s.dc := rfl
@[simp] theorem emitDiag_dev (c : DiagCode) : (emitDiag c s).dev = s.dev := rfl
@[simp] theorem emitDiag_wire (c : DiagCode) : (emitDiag c s).wire = s.wire := rfl
@[simp] theorem emitDiag_busTrace (c : DiagCode) : (emitDiag c s).busTrace = s.busTrace := rfl
@[simp] theorem emitDiag_diagTrace (c : DiagCode) : (emitDiag c s).diagTrace = s.diagTrace ++ [c] := rfl
@[simp] theorem emitDiag_btnTrace (c : DiagCode) : (emitDiag c s).btnTrace = s.btnTrace := rfl
@[simp] theorem emitDiag_dacTrace (c : DiagCode) : (emitDiag c s).dacTrace = s.dacTrace := rfl
@[simp] theorem emitDiag_adcTrace (c : DiagCode) : (emitDiag c s).adcTrace = s.adcTrace := rfl
@[simp] theorem emitDiag_inputs (c : DiagCode) : (emitDiag c s).inputs = s.inputs := rfl
@[simp] theorem emitDiag_envStep (c : DiagCode) : (emitDiag c s).envStep = s.envStep := rfl

/-! ### `emitButton` -/

@[simp] theorem emitButton_params : (emitButton s).params = s.params := rfl
@[simp] theorem emitButton_armed : (emitButton s).armed = s.armed := rfl
@[simp] theorem emitButton_cnt : (emitButton s).cnt = s.cnt := rfl
@[simp] theorem emitButton_cntRun : (emitButton s).cntRun = s.cntRun := rfl
@[simp] theorem emitButton_startTicks : (emitButton s).startTicks = s.startTicks := rfl
@[simp] theorem emitButton_hz : (emitButton s).hz = s.hz := rfl
@[simp] theorem emitButton_edgeMask : (emitButton s).edgeMask = s.edgeMask := rfl
@[simp] theorem emitButton_edgePend : (emitButton s).edgePend = s.edgePend := rfl
@[simp] theorem emitButton_ms : (emitButton s).ms = s.ms := rfl
@[simp] theorem emitButton_lastAcc : (emitButton s).lastAcc = s.lastAcc := rfl
@[simp] theorem emitButton_phase : (emitButton s).phase = s.phase := rfl
@[simp] theorem emitButton_txq : (emitButton s).txq = s.txq := rfl
@[simp] theorem emitButton_sample : (emitButton s).sample = s.sample := rfl
@[simp] theorem emitButton_dacData : (emitButton s).dacData = s.dacData := rfl
@[simp] theorem emitButton_ohms : (emitButton s).ohms = s.ohms := rfl
@[simp] theorem emitButton_delayT0 : (emitButton s).delayT0 = s.delayT0 := rfl
@[simp] theorem emitButton_waitCnt : (emitButton s).waitCnt = s.waitCnt := rfl
@[simp] theorem emitButton_csN : (emitButton s).csN = s.csN := rfl
@[simp] theorem emitButton_dc : (emitButton s).dc = s.dc := rfl
@[simp] theorem emitButton_dev : (emitButton s).dev = s.dev := rfl
@[simp] theorem emitButton_wire : (emitButton s).wire = s.wire := rfl
@[simp] theorem emitButton_busTrace : (emitButton s).busTrace = s.busTrace := rfl
@[simp] theorem emitButton_diagTrace : (emitButton s).diagTrace = s.diagTrace := rfl
@[simp] theorem emitButton_btnTrace : (emitButton s).btnTrace = s.btnTrace ++ [s.ms] := rfl
@[simp] theorem emitButton_dacTrace : (emitButton s).dacTrace = s.dacTrace := rfl
@[simp] theorem emitButton_adcTrace : (emitButton s).adcTrace = s.adcTrace := rfl
@[simp] theorem emitButton_inputs : (emitButton s).inputs = s.inputs := rfl
@[simp] theorem emitButton_envStep : (emitButton s).envStep = s.envStep := rfl

/-! ### `emitDac` -/

@[simp] theorem emitDac_params (c : AnalogCode) : (emitDac c s).params = s.params := rfl
@[simp] theorem emitDac_armed (c : AnalogCode) : (emitDac c s).armed = s.armed := rfl
@[simp] theorem emitDac_cnt (c : AnalogCode) : (emitDac c s).cnt = s.cnt := rfl
@[simp] theorem emitDac_cntRun (c : AnalogCode) : (emitDac c s).cntRun = s.cntRun := rfl
@[simp] theorem emitDac_startTicks (c : AnalogCode) : (emitDac c s).startTicks = s.startTicks := rfl
@[simp] theorem emitDac_hz (c : AnalogCode) : (emitDac c s).hz = s.hz := rfl
@[simp] theorem emitDac_edgeMask (c : AnalogCode) : (emitDac c s).edgeMask = s.edgeMask := rfl
@[simp] theorem emitDac_edgePend (c : AnalogCode) : (emitDac c s).edgePend = s.edgePend := rfl
@[simp] theorem emitDac_ms (c : AnalogCode) : (emitDac c s).ms = s.ms := rfl
@[simp] theorem emitDac_lastAcc (c : AnalogCode) : (emitDac c s).lastAcc = s.lastAcc := rfl
@[simp] theorem emitDac_phase (c : AnalogCode) : (emitDac c s).phase = s.phase := rfl
@[simp] theorem emitDac_txq (c : AnalogCode) : (emitDac c s).txq = s.txq := rfl
@[simp] theorem emitDac_sample (c : AnalogCode) : (emitDac c s).sample = s.sample := rfl
@[simp] theorem emitDac_dacData (c : AnalogCode) : (emitDac c s).dacData = s.dacData := rfl
@[simp] theorem emitDac_ohms (c : AnalogCode) : (emitDac c s).ohms = s.ohms := rfl
@[simp] theorem emitDac_delayT0 (c : AnalogCode) : (emitDac c s).delayT0 = s.delayT0 := rfl
@[simp] theorem emitDac_waitCnt (c : AnalogCode) : (emitDac c s).waitCnt = s.waitCnt := rfl
@[simp] theorem emitDac_csN (c : AnalogCode) : (emitDac c s).csN = s.csN := rfl
@[simp] theorem emitDac_dc (c : AnalogCode) : (emitDac c s).dc = s.dc := rfl
@[simp] theorem emitDac_dev (c : AnalogCode) : (emitDac c s).dev = s.dev := rfl
@[simp] theorem emitDac_wire (c : AnalogCode) : (emitDac c s).wire = s.wire := rfl
@[simp] theorem emitDac_busTrace (c : AnalogCode) : (emitDac c s).busTrace = s.busTrace := rfl
@[simp] theorem emitDac_diagTrace (c : AnalogCode) : (emitDac c s).diagTrace = s.diagTrace := rfl
@[simp] theorem emitDac_btnTrace (c : AnalogCode) : (emitDac c s).btnTrace = s.btnTrace := rfl
@[simp] theorem emitDac_dacTrace (c : AnalogCode) : (emitDac c s).dacTrace = s.dacTrace ++ [c] := rfl
@[simp] theorem emitDac_adcTrace (c : AnalogCode) : (emitDac c s).adcTrace = s.adcTrace := rfl
@[simp] theorem emitDac_inputs (c : AnalogCode) : (emitDac c s).inputs = s.inputs := rfl
@[simp] theorem emitDac_envStep (c : AnalogCode) : (emitDac c s).envStep = s.envStep := rfl

/-! ### `emitAdcStart` -/

@[simp] theorem emitAdcStart_params : (emitAdcStart s).params = s.params := rfl
@[simp] theorem emitAdcStart_armed : (emitAdcStart s).armed = s.armed := rfl
@[simp] theorem emitAdcStart_cnt : (emitAdcStart s).cnt = s.cnt := rfl
@[simp] theorem emitAdcStart_cntRun : (emitAdcStart s).cntRun = s.cntRun := rfl
@[simp] theorem emitAdcStart_startTicks : (emitAdcStart s).startTicks = s.startTicks := rfl
@[simp] theorem emitAdcStart_hz : (emitAdcStart s).hz = s.hz := rfl
@[simp] theorem emitAdcStart_edgeMask : (emitAdcStart s).edgeMask = s.edgeMask := rfl
@[simp] theorem emitAdcStart_edgePend : (emitAdcStart s).edgePend = s.edgePend := rfl
@[simp] theorem emitAdcStart_ms : (emitAdcStart s).ms = s.ms := rfl
@[simp] theorem emitAdcStart_lastAcc : (emitAdcStart s).lastAcc = s.lastAcc := rfl
@[simp] theorem emitAdcStart_phase : (emitAdcStart s).phase = s.phase := rfl
@[simp] theorem emitAdcStart_txq : (emitAdcStart s).txq = s.txq := rfl
@[simp] theorem emitAdcStart_sample : (emitAdcStart s).sample = s.sample := rfl
@[simp] theorem emitAdcStart_dacData : (emitAdcStart s).dacData = s.dacData := rfl
@[simp] theorem emitAdcStart_ohms : (emitAdcStart s).ohms = s.ohms := rfl
@[simp] theorem emitAdcStart_delayT0 : (emitAdcStart s).delayT0 = s.delayT0 := rfl
@[simp] theorem emitAdcStart_waitCnt : (emitAdcStart s).waitCnt = s.waitCnt := rfl
@[simp] theorem emitAdcStart_csN : (emitAdcStart s).csN = s.csN := rfl
@[simp] theorem emitAdcStart_dc : (emitAdcStart s).dc = s.dc := rfl
@[simp] theorem emitAdcStart_dev : (emitAdcStart s).dev = s.dev := rfl
@[simp] theorem emitAdcStart_wire : (emitAdcStart s).wire = s.wire := rfl
@[simp] theorem emitAdcStart_busTrace : (emitAdcStart s).busTrace = s.busTrace := rfl
@[simp] theorem emitAdcStart_diagTrace : (emitAdcStart s).diagTrace = s.diagTrace := rfl
@[simp] theorem emitAdcStart_btnTrace : (emitAdcStart s).btnTrace = s.btnTrace := rfl
@[simp] theorem emitAdcStart_dacTrace : (emitAdcStart s).dacTrace = s.dacTrace := rfl
@[simp] theorem emitAdcStart_adcTrace : (emitAdcStart s).adcTrace = s.adcTrace ++ [()] := rfl
@[simp] theorem emitAdcStart_inputs : (emitAdcStart s).inputs = s.inputs := rfl
@[simp] theorem emitAdcStart_envStep : (emitAdcStart s).envStep = s.envStep := rfl

/-! ### `enqueue` -/

@[simp] theorem enqueue_params (fs : List Frame) : (enqueue fs s).params = s.params := rfl
@[simp] theorem enqueue_armed (fs : List Frame) : (enqueue fs s).armed = s.armed := rfl
@[simp] theorem enqueue_cnt (fs : List Frame) : (enqueue fs s).cnt = s.cnt := rfl
@[simp] theorem enqueue_cntRun (fs : List Frame) : (enqueue fs s).cntRun = s.cntRun := rfl
@[simp] theorem enqueue_startTicks (fs : List Frame) : (enqueue fs s).startTicks = s.startTicks := rfl
@[simp] theorem enqueue_hz (fs : List Frame) : (enqueue fs s).hz = s.hz := rfl
@[simp] theorem enqueue_edgeMask (fs : List Frame) : (enqueue fs s).edgeMask = s.edgeMask := rfl
@[simp] theorem enqueue_edgePend (fs : List Frame) : (enqueue fs s).edgePend = s.edgePend := rfl
@[simp] theorem enqueue_ms (fs : List Frame) : (enqueue fs s).ms = s.ms := rfl
@[simp] theorem enqueue_lastAcc (fs : List Frame) : (enqueue fs s).lastAcc = s.lastAcc := rfl
@[simp] theorem enqueue_phase (fs : List Frame) : (enqueue fs s).phase = s.phase := rfl
@[simp] theorem enqueue_txq (fs : List Frame) : (enqueue fs s).txq = s.txq ++ fs := rfl
@[simp] theorem enqueue_sample (fs : List Frame) : (enqueue fs s).sample = s.sample := rfl
@[simp] theorem enqueue_dacData (fs : List Frame) : (enqueue fs s).dacData = s.dacData := rfl
@[simp] theorem enqueue_ohms (fs : List Frame) : (enqueue fs s).ohms = s.ohms := rfl
@[simp] theorem enqueue_delayT0 (fs : List Frame) : (enqueue fs s).delayT0 = s.delayT0 := rfl
@[simp] theorem enqueue_waitCnt (fs : List Frame) : (enqueue fs s).waitCnt = s.waitCnt := rfl
@[simp] theorem enqueue_csN (fs : List Frame) : (enqueue fs s).csN = s.csN := rfl
@[simp] theorem enqueue_dc (fs : List Frame) : (enqueue fs s).dc = s.dc := rfl
@[simp] theorem enqueue_dev (fs : List Frame) : (enqueue fs s).dev = s.dev := rfl
@[simp] theorem enqueue_wire (fs : List Frame) : (enqueue fs s).wire = s.wire := rfl
@[simp] theorem enqueue_busTrace (fs : List Frame) : (enqueue fs s).busTrace = s.busTrace := rfl
@[simp] theorem enqueue_diagTrace (fs : List Frame) : (enqueue fs s).diagTrace = s.diagTrace := rfl
@[simp] theorem enqueue_btnTrace (fs : List Frame) : (enqueue fs s).btnTrace = s.btnTrace := rfl
@[simp] theorem enqueue_dacTrace (fs : List Frame) : (enqueue fs s).dacTrace = s.dacTrace := rfl
@[simp] theorem enqueue_adcTrace (fs : List Frame) : (enqueue fs s).adcTrace = s.adcTrace := rfl
@[simp] theorem enqueue_inputs (fs : List Frame) : (enqueue fs s).inputs = s.inputs := rfl
@[simp] theorem enqueue_envStep (fs : List Frame) : (enqueue fs s).envStep = s.envStep := rfl

/-! ### `goto` -/

@[simp] theorem goto_params (c : PhaseCode) : (goto c s).params = s.params := rfl
@[simp] theorem goto_armed (c : PhaseCode) : (goto c s).armed = s.armed := rfl
@[simp] theorem goto_cnt (c : PhaseCode) : (goto c s).cnt = s.cnt := rfl
@[simp] theorem goto_cntRun (c : PhaseCode) : (goto c s).cntRun = s.cntRun := rfl
@[simp] theorem goto_startTicks (c : PhaseCode) : (goto c s).startTicks = s.startTicks := rfl
@[simp] theorem goto_hz (c : PhaseCode) : (goto c s).hz = s.hz := rfl
@[simp] theorem goto_edgeMask (c : PhaseCode) : (goto c s).edgeMask = s.edgeMask := rfl
@[simp] theorem goto_edgePend (c : PhaseCode) : (goto c s).edgePend = s.edgePend := rfl
@[simp] theorem goto_ms (c : PhaseCode) : (goto c s).ms = s.ms := rfl
@[simp] theorem goto_lastAcc (c : PhaseCode) : (goto c s).lastAcc = s.lastAcc := rfl
@[simp] theorem goto_phase (c : PhaseCode) : (goto c s).phase = c := rfl
@[simp] theorem goto_txq (c : PhaseCode) : (goto c s).txq = s.txq := rfl
@[simp] theorem goto_sample (c : PhaseCode) : (goto c s).sample = s.sample := rfl
@[simp] theorem goto_dacData (c : PhaseCode) : (goto c s).dacData = s.dacData := rfl
@[simp] theorem goto_ohms (c : PhaseCode) : (goto c s).ohms = s.ohms := rfl
@[simp] theorem goto_delayT0 (c : PhaseCode) : (goto c s).delayT0 = s.delayT0 := rfl
@[simp] theorem goto_waitCnt (c : PhaseCode) : (goto c s).waitCnt = s.waitCnt := rfl
@[simp] theorem goto_csN (c : PhaseCode) : (goto c s).csN = s.csN := rfl
@[simp] theorem goto_dc (c : PhaseCode) : (goto c s).dc = s.dc := rfl
@[simp] theorem goto_dev (c : PhaseCode) : (goto c s).dev = s.dev := rfl
@[simp] theorem goto_wire (c : PhaseCode) : (goto c s).wire = s.wire := rfl
@[simp] theorem goto_busTrace (c : PhaseCode) : (goto c s).busTrace = s.busTrace := rfl
@[simp] theorem goto_diagTrace (c : PhaseCode) : (goto c s).diagTrace = s.diagTrace := rfl
@[simp] theorem goto_btnTrace (c : PhaseCode) : (goto c s).btnTrace = s.btnTrace := rfl
@[simp] theorem goto_dacTrace (c : PhaseCode) : (goto c s).dacTrace = s.dacTrace := rfl
@[simp] theorem goto_adcTrace (c : PhaseCode) : (goto c s).adcTrace = s.adcTrace := rfl
@[simp] theorem goto_inputs (c : PhaseCode) : (goto c s).inputs = s.inputs := rfl
@[simp] theorem goto_envStep (c : PhaseCode) : (goto c s).envStep = s.envStep := rfl

/-! ### `setArmed` -/

@[simp] theorem setArmed_params : (setArmed s).params = s.params := rfl
@[simp] theorem setArmed_armed : (setArmed s).armed = true := rfl
@[simp] theorem setArmed_cnt : (setArmed s).cnt = s.cnt := rfl
@[simp] theorem setArmed_cntRun : (setArmed s).cntRun = true := rfl
@[simp] theorem setArmed_startTicks : (setArmed s).startTicks = s.startTicks := rfl
@[simp] theorem setArmed_hz : (setArmed s).hz = s.hz := rfl
@[simp] theorem setArmed_edgeMask : (setArmed s).edgeMask = s.edgeMask := rfl
@[simp] theorem setArmed_edgePend : (setArmed s).edgePend = s.edgePend := rfl
@[simp] theorem setArmed_ms : (setArmed s).ms = s.ms := rfl
@[simp] theorem setArmed_lastAcc : (setArmed s).lastAcc = s.lastAcc := rfl
@[simp] theorem setArmed_phase : (setArmed s).phase = s.phase := rfl
@[simp] theorem setArmed_txq : (setArmed s).txq = s.txq := rfl
@[simp] theorem setArmed_sample : (setArmed s).sample = s.sample := rfl
@[simp] theorem setArmed_dacData : (setArmed s).dacData = s.dacData := rfl
@[simp] theorem setArmed_ohms : (setArmed s).ohms = s.ohms := rfl
@[simp] theorem setArmed_delayT0 : (setArmed s).delayT0 = s.delayT0 := rfl
@[simp] theorem setArmed_waitCnt : (setArmed s).waitCnt = s.waitCnt := rfl
@[simp] theorem setArmed_csN : (setArmed s).csN = s.csN := rfl
@[simp] theorem setArmed_dc : (setArmed s).dc = s.dc := rfl
@[simp] theorem setArmed_dev : (setArmed s).dev = s.dev := rfl
@[simp] theorem setArmed_wire : (setArmed s).wire = s.wire := rfl
@[simp] theorem setArmed_busTrace : (setArmed s).busTrace = s.busTrace := rfl
@[simp] theorem setArmed_diagTrace : (setArmed s).diagTrace = s.diagTrace := rfl
@[simp] theorem setArmed_btnTrace : (setArmed s).btnTrace = s.btnTrace := rfl
@[simp] theorem setArmed_dacTrace : (setArmed s).dacTrace = s.dacTrace := rfl
@[simp] theorem setArmed_adcTrace : (setArmed s).adcTrace = s.adcTrace := rfl
@[simp] theorem setArmed_inputs : (setArmed s).inputs = s.inputs := rfl
@[simp] theorem setArmed_envStep : (setArmed s).envStep = s.envStep := rfl

/-! ### `setIdle` -/

@[simp] theorem setIdle_params : (setIdle s).params = s.params := rfl
@[simp] theorem setIdle_armed : (setIdle s).armed = false := rfl
@[simp] theorem setIdle_cnt : (setIdle s).cnt = s.cnt := rfl
@[simp] theorem setIdle_cntRun : (setIdle s).cntRun = false := rfl
@[simp] theorem setIdle_startTicks : (setIdle s).startTicks = s.startTicks := rfl
@[simp] theorem setIdle_hz : (setIdle s).hz = s.hz := rfl
@[simp] theorem setIdle_edgeMask : (setIdle s).edgeMask = s.edgeMask := rfl
@[simp] theorem setIdle_edgePend : (setIdle s).edgePend = s.edgePend := rfl
@[simp] theorem setIdle_ms : (setIdle s).ms = s.ms := rfl
@[simp] theorem setIdle_lastAcc : (setIdle s).lastAcc = s.lastAcc := rfl
@[simp] theorem setIdle_phase : (setIdle s).phase = s.phase := rfl
@[simp] theorem setIdle_txq : (setIdle s).txq = s.txq := rfl
@[simp] theorem setIdle_sample : (setIdle s).sample = s.sample := rfl
@[simp] theorem setIdle_dacData : (setIdle s).dacData = s.dacData := rfl
@[simp] theorem setIdle_ohms : (setIdle s).ohms = s.ohms := rfl
@[simp] theorem setIdle_delayT0 : (setIdle s).delayT0 = s.delayT0 := rfl
@[simp] theorem setIdle_waitCnt : (setIdle s).waitCnt = s.waitCnt := rfl
@[simp] theorem setIdle_csN : (setIdle s).csN = s.csN := rfl
@[simp] theorem setIdle_dc : (setIdle s).dc = s.dc := rfl
@[simp] theorem setIdle_dev : (setIdle s).dev = s.dev := rfl
@[simp] theorem setIdle_wire : (setIdle s).wire = s.wire := rfl
@[simp] theorem setIdle_busTrace : (setIdle s).busTrace = s.busTrace := rfl
@[simp] theorem setIdle_diagTrace : (setIdle s).diagTrace = s.diagTrace := rfl
@[simp] theorem setIdle_btnTrace : (setIdle s).btnTrace = s.btnTrace := rfl
@[simp] theorem setIdle_dacTrace : (setIdle s).dacTrace = s.dacTrace := rfl
@[simp] theorem setIdle_adcTrace : (setIdle s).adcTrace = s.adcTrace := rfl
@[simp] theorem setIdle_inputs : (setIdle s).inputs = s.inputs := rfl
@[simp] theorem setIdle_envStep : (setIdle s).envStep = s.envStep := rfl

/-! ### The exception -/

/-- Taking an exception emits its code and changes nothing else (60_exceptions.md R203). -/
theorem raise_eq (e : Exception) : raise e s = { s with diagTrace := s.diagTrace ++ [e.code] } := rfl

@[simp] theorem raise_def (e : Exception) : raise e s = emitDiag e.code s := rfl

/-! ### Two updates of one kind -/

@[simp] theorem enqueue_nil : enqueue [] s = s := by simp [enqueue]

@[simp] theorem enqueue_enqueue (fs gs : List Frame) : enqueue gs (enqueue fs s) = enqueue (fs ++ gs) s := by
  simp [enqueue, List.append_assoc]

@[simp] theorem goto_goto (c c' : PhaseCode) : goto c' (goto c s) = goto c' s := rfl

@[simp] theorem setIdle_setIdle : setIdle (setIdle s) = setIdle s := rfl

end Sys2Proof.Machine
end

