-- ==== Sys2Proof/Laws/Ops.lean ====
section
/-! SUPPORT. What each shared operation can do, said once; later proofs cite these instead of unfolding the operation. -/

namespace Sys2Proof.Machine

/-- Shifting bits out moves neither control pin. -/
theorem drivePins_shift (bits : List Bool) (s : State) : drivePins (bits.map .shiftOut) s = s := by
  induction bits with
  | nil => rfl
  | cons b bits ih => exact ih

/-- The pin sequence of a frame ends with the display deselected and `DC` at its idle level (43_display.md R133). -/
theorem drivePins_pinSequence (f : Frame) (s : State) : drivePins (pinSequence f) s = { s with csN := true, dc := true } := by
  have h := drivePins_shift (shiftOrder f.byte) { s with csN := false, dc := f.isData }
  simp only [drivePins] at h
  simp only [drivePins, pinSequence, List.foldl_append, List.foldl_cons, List.foldl_nil, drivePin, h]

/-- A transfer puts the frame on the bus and on the wire, and leaves the pins idle. -/
theorem transfer_eq (f : Frame) (s : State) :
    transfer f s = { s with csN := true, dc := true, busTrace := s.busTrace ++ [f], wire := s.wire ++ [f] } := by
  simp only [transfer, drivePins_pinSequence, emitBus]

/-- An arming edge (41_capture.md R102). -/
theorem armingEdge_eq (s : State) :
    armingEdge s = { s with cnt := 0#32, startTicks := 0#32, armed := true, cntRun := true } := rfl

/-- A closing edge with no elapsed tick (41_capture.md R103). -/
theorem closingEdge_zero {s : State} (h : elapsed s.cnt s.startTicks = 0#32) :
    closingEdge s = { s with armed := false, cntRun := false, diagTrace := s.diagTrace ++ [1#2] } := by
  simp only [closingEdge, h, if_true]; rfl

/-- A closing edge with elapsed ticks (41_capture.md R103). -/
theorem closingEdge_reading {s : State} (h : elapsed s.cnt s.startTicks ≠ 0#32) :
    closingEdge s =
      { s with armed := false, cntRun := false, hz := frequencyReading s.params.fTick (elapsed s.cnt s.startTicks) } := by
  simp only [closingEdge, h, if_false]; rfl

/-- One qualifying edge arms, closes without a reading, or closes with one (41_capture.md R108). -/
theorem capEdge_cases (s : State) :
    (s.armed = false ∧ capEdge s = { s with cnt := 0#32, startTicks := 0#32, armed := true, cntRun := true }) ∨
    (s.armed = true ∧ elapsed s.cnt s.startTicks = 0#32 ∧
      capEdge s = { s with armed := false, cntRun := false, diagTrace := s.diagTrace ++ [1#2] }) ∨
    (s.armed = true ∧ elapsed s.cnt s.startTicks ≠ 0#32 ∧
      capEdge s =
        { s with armed := false, cntRun := false, hz := frequencyReading s.params.fTick (elapsed s.cnt s.startTicks) }) := by
  by_cases ha : s.armed = true
  · by_cases ht : elapsed s.cnt s.startTicks = 0#32
    · exact .inr (.inl ⟨ha, ht, by simp only [capEdge, ha, if_true, closingEdge_zero ht]⟩)
    · exact .inr (.inr ⟨ha, ht, by simp only [capEdge, ha, if_true, closingEdge_reading ht]⟩)
  · exact .inl ⟨by simpa using ha, by simp only [capEdge, ha]; rfl⟩

/-- An overflow (41_capture.md R106). -/
theorem overflow_eq (s : State) :
    overflow s = { s with armed := false, cntRun := false, diagTrace := s.diagTrace ++ [2#2] } := rfl

/-- An unsuccessful poll counts; at the limit it also reports the stall and stops the sequencer (43_display.md R134). -/
theorem pollFailed_cases (s : State) :
    (limitReached s.params.waitLimit (s.waitCnt + 1) = false ∧ pollFailed s = { s with waitCnt := s.waitCnt + 1 }) ∨
    (limitReached s.params.waitLimit (s.waitCnt + 1) = true ∧
      pollFailed s =
        { s with waitCnt := s.waitCnt + 1, diagTrace := s.diagTrace ++ [3#2], phase := phStalledCode }) := by
  by_cases h : limitReached s.params.waitLimit (s.waitCnt + 1) = true
  · exact .inr ⟨h, by simp only [pollFailed, h, if_true]; rfl⟩
  · exact .inl ⟨by simpa using h, by simp only [pollFailed, h]; rfl⟩

/-- An infinite limit is never reached (00_scope.md R5). -/
@[simp] theorem limitReached_infinity (n : Nat) : limitReached .infinity n = false := rfl

end Sys2Proof.Machine
end

