-- ==== Sys2Proof/Laws/Panel.lean ====
section
/-! SUPPORT. The frame formats and the display device. -/

namespace Sys2Proof.Machine

/-! ### Frames -/

@[simp] theorem cmdFrame_isData (b : Byte) : (cmdFrame b).isData = false := by
  simp [Frame.isData, cmdFrame]

@[simp] theorem dataFrame_isData (b : Byte) : (dataFrame b).isData = true := by
  simp [Frame.isData, dataFrame]

/-- The byte of a frame, bit by bit. -/
theorem byte_ext {f : Frame} {b : Byte} (h : ∀ i, i < 8 → f.getLsbD i = b.getLsbD i) : f.byte = b := by
  refine BitVec.eq_of_getLsbD_eq fun i hi => ?_
  simpa [Frame.byte, hi] using h i hi

@[simp] theorem cmdFrame_byte (b : Byte) : (cmdFrame b).byte = b :=
  byte_ext fun i hi => by
    have : i < 9 := by omega
    simp [cmdFrame, this]

@[simp] theorem dataFrame_byte (b : Byte) : (dataFrame b).byte = b :=
  byte_ext fun i hi => by
    have : i < 9 := by omega
    have h0 : (0x100#9).getLsbD i = false := by
      rw [show (0x100#9) = BitVec.twoPow 9 8 from rfl, BitVec.getLsbD_twoPow]
      simp; omega
    rw [dataFrame, BitVec.getLsbD_or, h0, BitVec.getLsbD_setWidth]
    simp [this]

/-! ### The device -/

/-- Before the end of the init list a command only counts (20_memory.md R60). -/
theorem Device.command_init {d : Device} (b : Byte) (h : d.initCount < initLen) :
    d.command b = .ok { d with initCount := d.initCount + 1 } := by
  simp [Device.command, h]

/-- A data frame that the device takes writes one byte and moves one column on (20_memory.md R62). -/
theorem Device.data_ok {d d' : Device} {origin : BitVec 7} {v : Byte} (h : d.data origin v = .ok d') :
    initLen ≤ d.initCount ∧ ∃ x, logicalColumn origin d.col = some x ∧
      d' = { d with fb := Memory.write d.fb (fbAddress d.page x) v, col := d.col + 1#8 } := by
  unfold Device.data at h
  split at h
  · cases h
  · rename_i h₁
    refine ⟨Nat.le_of_not_lt h₁, ?_⟩
    split at h
    · rename_i x hx
      exact ⟨x, hx, by cases h; rfl⟩
    · cases h

/-- Consuming a frame is no power-on. -/
theorem Device.consume_powerOns {d d' : Device} {origin : BitVec 7} {f : Frame} (h : d.consume origin f = .ok d') :
    d'.powerOns = d.powerOns := by
  unfold Device.consume at h
  split at h
  · obtain ⟨-, x, -, rfl⟩ := Device.data_ok h; rfl
  · unfold Device.command at h
    repeat' split at h
    all_goals first
      | (rw [← Except.ok.inj h])
      | cases h

/-- Nor is feeding a list of them. -/
theorem Device.feed_powerOns {origin : BitVec 7} {fs : List Frame} {d d' : Device} (h : d.feed origin fs = .ok d') :
    d'.powerOns = d.powerOns := by
  induction fs generalizing d with
  | nil => rw [← Except.ok.inj h]
  | cons f fs ih =>
    unfold Device.feed at h
    split at h
    · rename_i d₁ h₁
      rw [ih h, Device.consume_powerOns h₁]
    · cases h

/-- At power-on every byte of display memory is the one drawn for it (20_memory.md R59). -/
@[simp] theorem Device.powerOn_pixelColumn (n : Nat) (q : Page) (y : Column) :
    (Device.powerOn n).pixelColumn q y = Config.fbPowerOn n (fbAddress q y) := rfl

/-- Display memory after a write: the byte where it was written, every other byte as before, wherever the pointer goes (20_memory.md R62). -/
theorem Device.pixelColumn_write (d : Device) (page q : Page) (x y : Column) (v col : Byte) :
    Device.pixelColumn { d with fb := Memory.write d.fb (fbAddress page x) v, col := col } q y =
      if q = page ∧ y = x then v else d.pixelColumn q y := by
  split
  · rename_i h; rw [h.1, h.2]; simp [Device.pixelColumn]
  · rename_i h
    simp only [Device.pixelColumn]
    rw [Memory.read_write_other _ _ fun e => h (fbAddress_inj.mp e)]

/-- A frame operation answers a next state exactly when the device takes the frame, and then changes the device only. -/
theorem withDevice_next {s t : State} {r : Except Refusal Device} (h : withDevice s r = .next t) :
    ∃ d, r = .ok d ∧ t = { s with dev := d } := by
  cases r with
  | ok d => exact ⟨d, rfl, by simpa [withDevice] using h.symm⟩
  | error e => simp [withDevice] at h

/-- A list of frames fed in two parts. -/
theorem Device.feed_append (origin : BitVec 7) (fs gs : List Frame) (d : Device) :
    Device.feed origin (fs ++ gs) d =
      match Device.feed origin fs d with
      | .ok d' => Device.feed origin gs d'
      | .error r => .error r := by
  induction fs generalizing d with
  | nil => rfl
  | cons f fs ih =>
    simp only [List.cons_append, Device.feed]
    cases Device.consume origin f d with
    | ok d' => exact ih d'
    | error r => rfl

end Sys2Proof.Machine
end

