-- ==== Sys2Proof/Laws/PerInstr.lean ====
section
/-! SUPPORT. Facts about every operation as syntax, one lemma per constructor. -/

namespace Sys2Proof.Laws.Encodable

/-- An operation has a word exactly when it is well formed (30_encoding.md R72: `OVF` has "no stimulus bit of its own"). -/
def Statement (i : Instr) : Prop := (encode i).isSome = i.wellFormed

theorem tick : Statement .tick := rfl
theorem ovf : Statement .ovf := rfl
theorem fedge : Statement .fedge := rfl
theorem mstick : Statement .mstick := rfl
theorem bedge : Statement .bedge := rfl
theorem send (busRdy : Bool) : Statement (.send busRdy) := rfl
theorem phInit : Statement .phInit := rfl
theorem phClear : Statement .phClear := rfl
theorem phStart : Statement .phStart := rfl
theorem phWait (adcRdy : Bool) (adcData : AnalogCode) : Statement (.phWait adcRdy adcData) := rfl
theorem phDac : Statement .phDac := rfl
theorem phCompute : Statement .phCompute := rfl
theorem phMask : Statement .phMask := rfl
theorem phRenderR : Statement .phRenderR := rfl
theorem phRenderF : Statement .phRenderF := rfl
theorem phUnmask : Statement .phUnmask := rfl
theorem phDelayArm : Statement .phDelayArm := rfl
theorem phDelayWait : Statement .phDelayWait := rfl
theorem phStalled : Statement .phStalled := rfl
theorem initCmd (byte : Byte) : Statement (.initCmd byte) := rfl
theorem pageSel (page : Page) : Statement (.pageSel page) := rfl
theorem colLo (nibble : BitVec 4) : Statement (.colLo nibble) := rfl
theorem colHi (nibble : BitVec 4) : Statement (.colHi nibble) := rfl
theorem data (byte : Byte) : Statement (.data byte) := rfl

end Sys2Proof.Laws.Encodable
end

