-- ==== Sys2Proof/Laws/Step.lean ====
section
/-! SUPPORT. The shape of one step. -/

namespace Sys2Proof.Machine

@[simp] theorem andThen_next (s : State) (k : State → Host.Outcome State Fault Refusal) : andThen (.next s) k = k s := rfl

@[simp] theorem andThen_refused (r : Refusal) (k : State → Host.Outcome State Fault Refusal) : andThen (.refused r) k = .refused r := rfl

/-- A next state of two parts comes from a next state of the first. -/
theorem andThen_eq_next {o : Host.Outcome State Fault Refusal} {k : State → Host.Outcome State Fault Refusal} {t : State}
    (h : andThen o k = .next t) : ∃ s, o = .next s ∧ k s = .next t := by
  cases o with
  | next s => exact ⟨s, rfl, h⟩
  | fault r => cases r
  | refused r => simp at h

@[simp] theorem execAll_nil (s : State) : execAll [] s = .next s := rfl

theorem execAll_cons (i : Instr) (is : List Instr) (s : State) : execAll (i :: is) s = andThen (exec i s) (execAll is) := rfl

@[simp] theorem andThen_assoc (o : Host.Outcome State Fault Refusal) (k l : State → Host.Outcome State Fault Refusal) :
    andThen (andThen o k) l = andThen o fun s => andThen (k s) l := by
  cases o <;> rfl

@[simp] theorem andThen_pure (o : Host.Outcome State Fault Refusal) : andThen o .next = o := by cases o <;> rfl

/-- The operations of two lists, one list after the other. -/
theorem execAll_append (is js : List Instr) (s : State) : execAll (is ++ js) s = andThen (execAll is s) (execAll js) := by
  induction is generalizing s with
  | nil => rfl
  | cons i is ih =>
    simp only [List.cons_append, execAll_cons, andThen_assoc]
    exact congrArg (andThen (exec i s)) (funext ih)

/-- A listed input is taken first. -/
theorem step_listed {s : State} {i : Input} {rest : List Input} (h : s.inputs = i :: rest) :
    step s = inputStep i { s with inputs := rest } := by
  simp [step, nextInput, afterInput, h]

/-- Without a listed input the environment chooses a stimulus word freely. -/
theorem step_free {s : State} (h : s.inputs = []) :
    step s = globalStep (Config.envStimulus s.envStep) { s with envStep := s.envStep + 1 } := by
  simp [step, nextInput, afterInput, h, inputStep]

/-- The display has nothing to read from an empty wire. -/
@[simp] theorem devicePart_empty {s : State} (h : s.wire = []) : devicePart s = s := by
  simp [devicePart, deviceFetch, h]

/-- A step on a stimulus word is its event part, its foreground part and the device's turn, each on the state before it. -/
theorem globalStep_next {w : StimWord} {s t : State} (h : globalStep w s = .next t) :
    ∃ e f, eventPart w s = .next e ∧ foregroundPart w e = .next f ∧ t = devicePart f := by
  obtain ⟨f, h₁, h₂⟩ := andThen_eq_next h
  obtain ⟨e, h₃, h₄⟩ := andThen_eq_next h₁
  exact ⟨e, f, h₃, h₄, by simpa using h₂.symm⟩

/-- The event operations of a stimulus word. -/
theorem mem_decodeEvents {w : StimWord} {i : Instr} (h : i ∈ decodeEvents w) :
    i = .tick ∨ i = .fedge ∨ i = .mstick ∨ i = .bedge := by
  simp only [decodeEvents, List.mem_append] at h
  rcases h with ((h | h) | h) | h <;> split at h <;> simp at h <;> simp [h]

/-- What every operation of a list keeps, the list keeps. -/
theorem execAll_keeps {P : State → Prop} {is : List Instr} (hP : ∀ i ∈ is, ∀ s t, P s → exec i s = .next t → P t) {s t : State}
    (hs : P s) (h : execAll is s = .next t) : P t := by
  induction is generalizing s with
  | nil => cases h; exact hs
  | cons i is ih =>
    obtain ⟨u, h₁, h₂⟩ := andThen_eq_next h
    exact ih (fun j hj => hP j (List.mem_cons_of_mem _ hj)) (hP i List.mem_cons_self s u hs h₁) h₂

/-- What a foreground step can be: nothing without `FG`, else the decoded operation. -/
theorem foregroundPart_cases {w : StimWord} {s t : State} (h : foregroundPart w s = .next t) :
    (w.fg = false ∧ t = s) ∨
    (w.fg = true ∧ ∃ i, decodeForeground s.phase (!s.txq.isEmpty) w = .ok i ∧ exec i s = .next t) := by
  unfold foregroundPart at h
  split at h
  · rename_i hf
    split at h
    · rename_i i hi; exact .inr ⟨hf, i, hi, h⟩
    · cases h
  · rename_i hf; cases h; exact .inl ⟨by simpa using hf, rfl⟩

/-- The 16 values of a phase code. -/
theorem phaseCode_cases (code : PhaseCode) :
    code = 0#4 ∨ code = 1#4 ∨ code = 2#4 ∨ code = 3#4 ∨ code = 4#4 ∨ code = 5#4 ∨ code = 6#4 ∨ code = 7#4 ∨ code = 8#4 ∨
      code = 9#4 ∨ code = 10#4 ∨ code = 11#4 ∨ code = 12#4 ∨ code = 13#4 ∨ code = 14#4 ∨ code = 15#4 := by
  revert code; decide

/-- The phase operation of a code (30_encoding.md R74). -/
theorem decodePhase_cases {code : PhaseCode} {w : StimWord} {i : Instr} (h : decodePhase code w = .ok i) :
    (code = phInitCode ∧ i = .phInit) ∨ (code = phClearCode ∧ i = .phClear) ∨ (code = phStartCode ∧ i = .phStart) ∨
      (code = phWaitCode ∧ i = .phWait w.adcRdy w.adcData) ∨ (code = phDacCode ∧ i = .phDac) ∨
      (code = phComputeCode ∧ i = .phCompute) ∨ (code = phMaskCode ∧ i = .phMask) ∨
      (code = phRenderRCode ∧ i = .phRenderR) ∨ (code = phRenderFCode ∧ i = .phRenderF) ∨
      (code = phUnmaskCode ∧ i = .phUnmask) ∨ (code = phDelayArmCode ∧ i = .phDelayArm) ∨
      (code = phDelayWaitCode ∧ i = .phDelayWait) ∨ (code = phStalledCode ∧ i = .phStalled) := by
  rcases phaseCode_cases code with rfl | rfl | rfl | rfl | rfl | rfl | rfl | rfl | rfl | rfl | rfl | rfl | rfl | rfl | rfl | rfl
  all_goals first
    | (cases h; simp)
    | cases h

/-- What a foreground operation can be (30_encoding.md R73): the stop, a `SEND` of a queued frame, or the operation of the phase, with an
empty queue. -/
theorem decodeForeground_cases {code : PhaseCode} {queued : Bool} {w : StimWord} {i : Instr}
    (h : decodeForeground code queued w = .ok i) :
    legalPhase code = true ∧
    ((code = phStalledCode ∧ i = .phStalled) ∨
      (code ≠ phStalledCode ∧ queued = true ∧ i = .send w.busRdy) ∨
      (code ≠ phStalledCode ∧ queued = false ∧ decodePhase code w = .ok i)) := by
  unfold decodeForeground at h
  split at h
  · cases h
  rename_i hl
  refine ⟨by simpa using hl, ?_⟩
  split at h
  · rename_i hc; exact .inl ⟨hc, (Except.ok.inj h).symm⟩
  rename_i hc
  split at h
  · rename_i hq; exact .inr (.inl ⟨hc, hq, (Except.ok.inj h).symm⟩)
  rename_i hq
  exact .inr (.inr ⟨hc, by simpa using hq, h⟩)

/-- A command frame's operation, read where the device stands, does to the device what the frame's byte does (20_memory.md R60, R61). -/
theorem exec_frame (s : State) (f : Frame) :
    (∃ i, decodeFrame (decide (initLen ≤ s.dev.initCount)) f = .ok i ∧ exec i s = withDevice s (s.dev.consume s.params.colOrigin f)) ∨
    (∃ e r, decodeFrame (decide (initLen ≤ s.dev.initCount)) f = .error e ∧ s.dev.consume s.params.colOrigin f = .error r) := by
  have hf : ∀ g : Frame, g.isData = false →
      (g &&& 0x1F8#9 = 0x0B0#9 → 0xB0#8 ||| (g.extractLsb' 0 3).setWidth 8 = g.byte) ∧
      (g &&& 0x1F0#9 = 0x000#9 → 0x00#8 ||| (g.extractLsb' 0 4).setWidth 8 = g.byte) ∧
      (g &&& 0x1F0#9 = 0x010#9 → 0x10#8 ||| (g.extractLsb' 0 4).setWidth 8 = g.byte) ∧
      (g &&& 0x1F8#9 ≠ 0x0B0#9 → g.byte.extractLsb' 3 5 ≠ 0b10110#5) ∧
      (g &&& 0x1F0#9 ≠ 0x000#9 → g.byte.extractLsb' 4 4 ≠ 0b0000#4) ∧
      (g &&& 0x1F0#9 ≠ 0x010#9 → g.byte.extractLsb' 4 4 ≠ 0b0001#4) := by
    decide +kernel
  by_cases hd : f.isData = true
  · exact .inl ⟨.data f.byte, by simp [decodeFrame, hd], by simp [Device.consume, hd, exec, execData]⟩
  · obtain ⟨h₁, h₂, h₃, h₄, h₅, h₆⟩ := hf f (by simpa using hd)
    have hc : s.dev.consume s.params.colOrigin f = s.dev.command f.byte := by simp [Device.consume, hd]
    rw [hc]
    by_cases hi : initLen ≤ s.dev.initCount
    · by_cases c₁ : f &&& 0x1F8#9 = 0x0B0#9
      · exact .inl ⟨_, by simp only [decodeFrame, hd, hi, c₁, decide_true]; rfl, by simp only [exec, execPageSel, h₁ c₁]⟩
      by_cases c₂ : f &&& 0x1F0#9 = 0x000#9
      · exact .inl ⟨_, by simp only [decodeFrame, hd, hi, c₁, c₂, decide_true]; rfl, by simp only [exec, execColLo, h₂ c₂]⟩
      by_cases c₃ : f &&& 0x1F0#9 = 0x010#9
      · refine .inl ⟨.colHi (f.extractLsb' 0 4), ?_, by simp only [exec, execColHi, h₃ c₃]⟩
        simp [decodeFrame, hd, show 29 ≤ s.dev.initCount from hi, c₁, c₃]
      · refine .inr ⟨.unknownCommand f.byte, .unknownCommand f.byte, ?_, ?_⟩
        · simp [decodeFrame, hd, show 29 ≤ s.dev.initCount from hi, c₁, c₂, c₃]
        · simp only [Device.command, Nat.not_lt.mpr hi, h₄ c₁, h₅ c₂, h₆ c₃, if_false]
    · exact .inl ⟨.initCmd f.byte, by simp [decodeFrame, hd, Nat.not_le.mp hi], rfl⟩

/-- The display's turn: it consumes the oldest frame on the wire, or, where that frame has no meaning, does nothing (20_memory.md R58, R63). -/
theorem devicePart_cons {s : State} {f : Frame} {fs : List Frame} (h : s.wire = f :: fs) :
    devicePart s =
      match s.dev.consume s.params.colOrigin f with
      | .ok d => { s with wire := fs, dev := d }
      | .error _ => s := by
  rcases exec_frame { s with wire := fs } f with ⟨i, hi, hx⟩ | ⟨e, r, hi, hx⟩
  · simp only [devicePart, deviceFetch, h, List.head?_cons, Option.map_some, hi, List.tail_cons, hx]
    cases s.dev.consume s.params.colOrigin f <;> rfl
  · simp only [devicePart, deviceFetch, h, List.head?_cons, Option.map_some, hi, hx]

/-- What the display's turn can be: nothing, or the consumption of the oldest frame on the wire. -/
theorem devicePart_cases (s : State) :
    devicePart s = s ∨
    ∃ f fs d, s.wire = f :: fs ∧ s.dev.consume s.params.colOrigin f = .ok d ∧ devicePart s = { s with wire := fs, dev := d } := by
  cases hw : s.wire with
  | nil => exact .inl (devicePart_empty hw)
  | cons f fs =>
    cases hd : s.dev.consume s.params.colOrigin f with
    | ok d => exact .inr ⟨f, fs, d, rfl, hd, by simp only [devicePart_cons hw, hd]⟩
    | error r => exact .inl (by simp only [devicePart_cons hw, hd])

/-- Everything an event operation can do (41_capture.md R101, R104; 42_debounce.md R120, R121). -/
theorem exec_event_cases {i : Instr} {s t : State} (hi : i = .tick ∨ i = .fedge ∨ i = .mstick ∨ i = .bedge) (h : exec i s = .next t) :
    (i = .tick ∧
      ((s.cntRun = false ∧ t = s) ∨
        (s.cntRun = true ∧ s.cnt ≠ 0xFFFFFFFF#32 ∧ t = { s with cnt := s.cnt + 1#32 }) ∨
        (s.cntRun = true ∧ s.cnt = 0xFFFFFFFF#32 ∧
          t = { s with cnt := 0#32, armed := false, cntRun := false, diagTrace := s.diagTrace ++ [2#2] }))) ∨
    (i = .fedge ∧
      ((s.edgeMask = true ∧ s.params.maskedEdge = .latch ∧ t = { s with edgePend := true }) ∨
        (s.edgeMask = true ∧ s.params.maskedEdge = .drop ∧ t = s) ∨ (s.edgeMask = false ∧ t = capEdge s))) ∨
    (i = .mstick ∧ t = { s with ms := s.ms + 1#16 }) ∨
    (i = .bedge ∧
      ((50 ≤ (s.ms - s.lastAcc).toNat ∧ t = { s with lastAcc := s.ms, btnTrace := s.btnTrace ++ [s.ms] }) ∨
        (¬ 50 ≤ (s.ms - s.lastAcc).toNat ∧ t = s))) := by
  rcases hi with rfl | rfl | rfl | rfl
  · refine .inl ⟨rfl, ?_⟩
    simp only [exec, execTick] at h
    split at h
    · rename_i h1
      split at h
      · rename_i h2
        exact .inr (.inr ⟨h1, h2, by rw [← Host.Outcome.next.inj h, overflow_eq]⟩)
      · rename_i h2
        exact .inr (.inl ⟨h1, h2, by rw [← Host.Outcome.next.inj h]⟩)
    · rename_i h1
      exact .inl ⟨by simpa using h1, by rw [← Host.Outcome.next.inj h]⟩
  · refine .inr (.inl ⟨rfl, ?_⟩)
    simp only [exec, execFedge] at h
    split at h
    · rename_i h1
      split at h
      · rename_i h2
        exact .inl ⟨h1, h2, by rw [← Host.Outcome.next.inj h]⟩
      · rename_i h2
        exact .inr (.inl ⟨h1, h2, by rw [← Host.Outcome.next.inj h]⟩)
    · rename_i h1
      exact .inr (.inr ⟨by simpa using h1, by rw [← Host.Outcome.next.inj h]⟩)
  · refine .inr (.inr (.inl ⟨rfl, ?_⟩))
    simp only [exec, execMstick] at h
    rw [← Host.Outcome.next.inj h]
  · refine .inr (.inr (.inr ⟨rfl, ?_⟩))
    by_cases h1 : 50 ≤ (s.ms - s.lastAcc).toNat
    · simp only [exec, execBedge, debounceAccepts, wsub16, debounceWindow, h1, decide_true, if_true] at h
      exact .inl ⟨h1, by rw [← Host.Outcome.next.inj h]; rfl⟩
    · simp only [exec, execBedge, debounceAccepts, wsub16, debounceWindow, h1, decide_false, Bool.false_eq_true, if_false] at h
      exact .inr ⟨h1, by rw [← Host.Outcome.next.inj h]⟩

/-- Everything a selected foreground operation can do (30_encoding.md R73; 43_display.md R134; 44_sampling.md R163 to R176). -/
theorem exec_foreground_cases {w : StimWord} {i : Instr} {s t : State}
    (hi : decodeForeground s.phase (!s.txq.isEmpty) w = .ok i) (h : exec i s = .next t) :
    (i = .phStalled ∧ s.phase = 12#4 ∧ t = s) ∨
    (s.phase.toNat < 12 ∧ i = .send w.busRdy ∧ ∃ f rest, s.txq = f :: rest ∧
      (t = { s with
          busTrace := s.busTrace ++ [f], wire := s.wire ++ [f], txq := rest, waitCnt := 0, csN := true, dc := true } ∨
        t = pollFailed s)) ∨
    (s.txq = [] ∧
      ((i = .phInit ∧ s.phase = 0#4 ∧ t = { s with txq := initFrames s.params, phase := 1#4 }) ∨
        (i = .phClear ∧ s.phase = 1#4 ∧ t = { s with txq := clearFrames s.params, phase := 2#4 }) ∨
        (i = .phStart ∧ s.phase = 2#4 ∧ t = { s with adcTrace := s.adcTrace ++ [()], waitCnt := 0, phase := 3#4 }) ∨
        (i = .phWait w.adcRdy w.adcData ∧ s.phase = 3#4 ∧
          (t = { s with sample := w.adcData, waitCnt := 0, phase := 4#4 } ∨ t = pollFailed s)) ∨
        (i = .phDac ∧ s.phase = 4#4 ∧ t = { s with dacData := s.sample, dacTrace := s.dacTrace ++ [s.sample], phase := 5#4 }) ∨
        (i = .phCompute ∧ s.phase = 5#4 ∧ t = { s with ohms := ohmsFn s.params s.sample, phase := 6#4 }) ∨
        (i = .phMask ∧ s.phase = 6#4 ∧ t = { s with edgeMask := true, phase := 7#4 }) ∨
        (i = .phRenderR ∧ s.phase = 7#4 ∧
          t = { s with txq := textFrames s.params s.params.pageR textCol0 (lineR s.ohms), phase := 8#4 }) ∨
        (i = .phRenderF ∧ s.phase = 8#4 ∧
          t = { s with txq := textFrames s.params s.params.pageF textCol0 (lineF s.hz), phase := 9#4 }) ∨
        (i = .phUnmask ∧ s.phase = 9#4 ∧
          ((s.edgePend = true ∧ t = goto phDelayArmCode (capEdge { s with edgeMask := false, edgePend := false })) ∨
            (s.edgePend = false ∧ t = { s with edgeMask := false, phase := 10#4 }))) ∨
        (i = .phDelayArm ∧ s.phase = 10#4 ∧ t = { s with delayT0 := s.ms, phase := 11#4 }) ∨
        (i = .phDelayWait ∧ s.phase = 11#4 ∧ (t = { s with phase := 2#4 } ∨ t = s)))) := by
  obtain ⟨hl, hc⟩ := decodeForeground_cases hi
  rcases hc with ⟨h1, rfl⟩ | ⟨h1, h2, rfl⟩ | ⟨h1, h2, h3⟩
  · exact .inl ⟨rfl, h1, (Host.Outcome.next.inj h).symm⟩
  · refine .inr (.inl ⟨?_, rfl, ?_⟩)
    · rcases phaseCode_cases s.phase with e | e | e | e | e | e | e | e | e | e | e | e | e | e | e | e <;> simp [e, legalPhase] at hl h1 ⊢
    · cases hq : s.txq with
      | nil => simp [hq] at h2
      | cons f rest =>
        refine ⟨f, rest, rfl, ?_⟩
        simp only [exec, execSend, hq, transfer_eq] at h
        split at h
        · left; rw [← Host.Outcome.next.inj h]
        · right; rw [← Host.Outcome.next.inj h]
  · have hq : s.txq = [] := by simpa using h2
    refine .inr (.inr ⟨hq, ?_⟩)
    rcases decodePhase_cases h3 with ⟨e, rfl⟩ | ⟨e, rfl⟩ | ⟨e, rfl⟩ | ⟨e, rfl⟩ | ⟨e, rfl⟩ | ⟨e, rfl⟩ | ⟨e, rfl⟩ | ⟨e, rfl⟩ | ⟨e, rfl⟩ | ⟨e, rfl⟩ | ⟨e, rfl⟩ | ⟨e, rfl⟩ | ⟨e, rfl⟩
    · refine .inl ⟨rfl, e, ?_⟩; rw [← Host.Outcome.next.inj h]; simp only [enqueue, goto, hq, List.nil_append]
    · refine .inr (.inl ⟨rfl, e, ?_⟩); rw [← Host.Outcome.next.inj h]; simp only [enqueue, goto, hq, List.nil_append]
    · refine .inr (.inr (.inl ⟨rfl, e, ?_⟩)); rw [← Host.Outcome.next.inj h]; rfl
    · refine .inr (.inr (.inr (.inl ⟨rfl, e, ?_⟩)))
      simp only [exec, execPhWait] at h
      split at h
      · left; rw [← Host.Outcome.next.inj h]; rfl
      · right; rw [← Host.Outcome.next.inj h]
    · refine .inr (.inr (.inr (.inr (.inl ⟨rfl, e, ?_⟩)))); rw [← Host.Outcome.next.inj h]; rfl
    · refine .inr (.inr (.inr (.inr (.inr (.inl ⟨rfl, e, ?_⟩))))); rw [← Host.Outcome.next.inj h]; rfl
    · refine .inr (.inr (.inr (.inr (.inr (.inr (.inl ⟨rfl, e, ?_⟩)))))); rw [← Host.Outcome.next.inj h]; rfl
    · refine .inr (.inr (.inr (.inr (.inr (.inr (.inr (.inl ⟨rfl, e, ?_⟩))))))); rw [← Host.Outcome.next.inj h]; simp only [enqueue, goto, hq, List.nil_append]
    · refine .inr (.inr (.inr (.inr (.inr (.inr (.inr (.inr (.inl ⟨rfl, e, ?_⟩)))))))); rw [← Host.Outcome.next.inj h]; simp only [enqueue, goto, hq, List.nil_append]
    · refine .inr (.inr (.inr (.inr (.inr (.inr (.inr (.inr (.inr (.inl ⟨rfl, e, ?_⟩)))))))))
      simp only [exec, execPhUnmask] at h
      split at h
      · rename_i hp; left; exact ⟨hp, (Host.Outcome.next.inj h).symm⟩
      · rename_i hp; right; refine ⟨by simpa using hp, ?_⟩; rw [← Host.Outcome.next.inj h]; rfl
    · refine .inr (.inr (.inr (.inr (.inr (.inr (.inr (.inr (.inr (.inr (.inl ⟨rfl, e, ?_⟩)))))))))); rw [← Host.Outcome.next.inj h]; rfl
    · refine .inr (.inr (.inr (.inr (.inr (.inr (.inr (.inr (.inr (.inr (.inr ⟨rfl, e, ?_⟩))))))))))
      simp only [exec, execPhDelayWait] at h
      split at h
      · left; rw [← Host.Outcome.next.inj h]; rfl
      · right; rw [← Host.Outcome.next.inj h]
    · exact absurd e h1

/-- The display's turn changes the display and the frames on their way to it, and nothing else. -/
theorem devicePart_frame (s : State) : ∃ d w, devicePart s = { s with wire := w, dev := d } := by
  rcases devicePart_cases s with h | ⟨f, fs, d, -, -, h⟩
  · exact ⟨s.dev, s.wire, by rw [h]⟩
  · exact ⟨d, fs, h⟩

/-- An invariant that taking an input, a reset, every event, every foreground operation where it is selected, and the display's turn keep, a
step keeps. -/
theorem step_keeps {P : State → Prop} (hin : ∀ s, P s → P (afterInput s)) (hrst : ∀ s, P s → P (resetStep s))
    (hev : ∀ i s t, i = .tick ∨ i = .fedge ∨ i = .mstick ∨ i = .bedge → P s → exec i s = .next t → P t)
    (hfg : ∀ w i s t, decodeForeground s.phase (!s.txq.isEmpty) w = .ok i → P s → exec i s = .next t → P t)
    (hdev : ∀ s, P s → P (devicePart s)) {s t : State} (hs : P s) (h : step s = .next t) : P t := by
  unfold step inputStep at h
  split at h
  · cases h; exact hrst _ (hin _ hs)
  · obtain ⟨e, f, he, hf, rfl⟩ := globalStep_next h
    have h₁ : P e := execAll_keeps (fun i hi u v => hev i u v (mem_decodeEvents hi)) (hin _ hs) he
    refine hdev _ ?_
    rcases foregroundPart_cases hf with ⟨-, rfl⟩ | ⟨-, i, hi, hx⟩
    · exact h₁
    · exact hfg _ i e f hi h₁ hx

end Sys2Proof.Machine
end

