-- ==== Sys2Proof/Laws/Run.lean ====
section
/-! SUPPORT. Runs of the machine: one step at a time, in two parts, and as the host's own run. -/

namespace Sys2Proof.Machine

@[simp] theorem run_zero (s : State) : run 0 s = .next s := rfl

/-- A run of one step more is that step, then the rest. -/
theorem run_succ (k : Nat) (s : State) : run (k + 1) s = andThen (step s) (run k) := rfl

/-- A run in two parts. -/
theorem run_add (j k : Nat) (s : State) : run (j + k) s = andThen (run j s) (run k) := by
  induction j generalizing s with
  | zero => rw [Nat.zero_add]; rfl
  | succ j ih =>
    rw [Nat.succ_add, run_succ, run_succ, andThen_assoc]
    exact congrArg (andThen (step s)) (funext ih)

/-- One step of any machine of the host, in front of a run. -/
theorem host_run_succ (M : Host.Core) (k : Nat) (s : M.State) :
    M.run (k + 1) s =
      match M.step s with
      | .next t => M.run k t
      | .fault r => .fault r
      | .refused r => .refused r := rfl

theorem host_run_next {M : Host.Core} {s t : M.State} (k : Nat) (h : M.step s = .next t) : M.run (k + 1) s = M.run k t := by
  rw [host_run_succ, h]

theorem host_run_refused {M : Host.Core} {s : M.State} {r : M.Refusal} (k : Nat) (h : M.step s = .refused r) :
    M.run (k + 1) s = .refused r := by
  rw [host_run_succ, h]

/-- The model's run is the host's. -/
theorem core_run (k : Nat) (s : State) : Sys2Proof.core.run k s = run k s := by
  induction k generalizing s with
  | zero => rfl
  | succ k ih =>
    cases h : step s with
    | next t =>
      have e : run (k + 1) s = run k t := by rw [run_succ, h]; rfl
      exact (host_run_next (M := Sys2Proof.core) k h).trans ((ih t).trans e.symm)
    | fault r => cases r
    | refused r =>
      have e : run (k + 1) s = .refused r := by rw [run_succ, h]; rfl
      exact (host_run_refused (M := Sys2Proof.core) k h).trans e.symm

end Sys2Proof.Machine
end

