-- ==== Sys2Proof/Machine/Script.lean ====
section
/-! DEFINITION. The spec's own script notation for sequences of stimulus words (30_encoding.md R86, R87). -/

namespace Sys2Proof.Machine

/-- A primitive statement: exactly one stimulus word (30_encoding.md R86). -/
inductive Primitive where
  | nop
  | tick
  | fedge
  | mstick
  | bedge
  /-- `fg`, with `bus` and with `rdy adc=v` where given. -/
  | fg (bus : Bool) (rdy : Option AnalogCode)
  /-- `ev a+b+..`: the or of the words. -/
  | ev (parts : List Primitive)
  deriving Repr

/-- The word of a primitive statement. -/
def Primitive.word : Primitive → StimWord
  | .nop => 0x00000#19
  | .tick => 0x00001#19
  | .fedge => 0x00002#19
  | .mstick => 0x00004#19
  | .bedge => 0x00008#19
  | .fg bus none => fgWord false bus 0#12
  | .fg bus (some v) => fgWord true bus v
  | .ev parts => words parts
where
  /-- The or of the words of a list. -/
  words : List Primitive → StimWord
    | [] => 0#19
    | p :: ps => p.word ||| words ps

/-- A statement: a primitive one, or a pseudo-statement (30_encoding.md R87). -/
inductive Statement where
  | primitive (p : Primitive)
  /-- `tick n`. -/
  | tick (n : Nat)
  /-- `ms n`. -/
  | ms (n : Nat)
  /-- `drain`. -/
  | drain
  /-- `fgrun`. -/
  | fgrun
  /-- `sample v`. -/
  | sample (v : AnalogCode)
  deriving Repr

/-- The global steps of a list of words. -/
def globalSteps : List StimWord → State → Host.Outcome State Fault Refusal
  | [], s => .next s
  | w :: ws, s => andThen (globalStep w s) (globalSteps ws)

/-- Where `fgrun` stops: the next foreground operation is `PH_WAIT` or `PH_DELAY_WAIT`, or the sequencer has stopped. -/
def fgrunStops (s : State) : Bool :=
  decide (s.phase = phStalledCode) || (s.txq.isEmpty && (decide (s.phase = phWaitCode) || decide (s.phase = phDelayWaitCode)))

/-- `fg bus` repeated until `fgrun` stops, at most `fuel` times. -/
def fgrunSteps : Nat → State → Host.Outcome State Fault Refusal
  | 0, s => .next s
  | fuel + 1, s => if fgrunStops s then .next s else andThen (globalStep 0x00050#19 s) (fgrunSteps fuel)

/-- What a statement does. For `fgrun`, no start needs more steps than the queued frames and the 1080 steps from reset to the first conversion
(70_reset_and_hazards.md R232) together. -/
def Statement.run : Statement → State → Host.Outcome State Fault Refusal
  | .primitive p, s => globalStep p.word s
  | .tick n, s => globalSteps (List.replicate n 0x00001#19) s
  | .ms n, s => globalSteps (List.replicate n 0x00004#19) s
  | .drain, s => globalSteps (List.replicate s.txq.length 0x00050#19) s
  | .fgrun, s => fgrunSteps (s.txq.length + 1080) s
  | .sample v, s => globalStep (fgWord true false v) s

/-- The statements of a script, in order. -/
def runScript : List Statement → State → Host.Outcome State Fault Refusal
  | [], s => .next s
  | c :: cs, s => andThen (c.run s) (runScript cs)

end Sys2Proof.Machine
end

