-- ==== Sys2Proof/Tests/Slice0.lean ====
section
/-! SUPPORT. Tests: ill-formed terms refused, words written out from the spec's encodings, one step per operation with the expected values of
95_test_vectors.md, and a witness for the hypotheses of every statement. -/

namespace Sys2Proof.Tests

open Sys2Proof.Machine

/-! ### States and looks at them -/

/-- The next state, looked at through `f`. -/
def look {α : Type} (o : Host.Outcome State Fault Refusal) (f : State → α) : Option α :=
  match o with
  | .next s => some (f s)
  | .fault _ => none
  | .refused _ => none

/-- An Armed session with the counter at a value, as section 2.1 of the vectors writes it. -/
def armedAt (n : BitVec 32) : State := { State.reset with armed := true, cntRun := true, cnt := n }

/-- The sequencer at a phase, with an empty queue. -/
def atPhase (code : PhaseCode) : State := { State.reset with phase := code }

/-- The display after its init list, with the cursor at a page and a column, nothing written. -/
def screenAt (page : Page) (col : Byte) : State :=
  { State.reset with dev := { powerOns := 0, initCount := 29, page := page, col := col, fb := [] } }

/-- The fixture `TESTGLYPH` of section 0 of the vectors. -/
def testGlyph : List Byte := (List.range 1024).map fun a => BitVec.ofNat 8 (a / 8 + 32 * (a % 8))

/-- The fixture `TESTINIT`. -/
def testInit : List Byte := (List.range 29).map fun k => BitVec.ofNat 8 (0xA0 + k)

/-- The default parameters with the two fixtures. -/
def fixtures : Params := { Params.default with glyph := testGlyph, initSeq := testInit }

/-- The default parameters with a finite poll limit. -/
def limited (n : Nat) (h : 0 < n) : Params := { Params.default with waitLimit := .polls n h }

/-- The state with a word as its next input. -/
def given (w : StimWord) (s : State) : State := { s with inputs := [.stim w] }

/-! ### Ill-formed terms are refused (WellFormed) -/

theorem test_illformed_ovf : Instr.wellFormed .ovf = false := by decide
theorem test_illformed_phase : legalPhase 13#4 = false := by decide
theorem test_illformed_frame : legalFrame 0x0B8#9 = false := by decide
theorem test_illformed_setCol : (DspOp.setCol 128#8).wellFormed = false := by decide
theorem test_illformed_glyph_column : (DspOp.glyph 0#8 121#8 0x41#8).wellFormed = false := by decide
theorem test_illformed_glyph_code : (DspOp.glyph 0#8 0#8 0x80#8).wellFormed = false := by decide
theorem test_illformed_text : (DspOp.text 0#8 0#8 [0x41#8, 0x80#8]).wellFormed = false := by decide
theorem test_illformed_setCol_refused : DspOp.expand Params.default (.setCol 128#8) = .error .operandOutOfRange := by decide

/-! ### Words written out bit by bit (30_encoding.md R70, R72, R74, R77) -/

theorem test_decode_tick : decode (.strobes 0b0000000000000000001#19) = .ok [.tick] := by decide
theorem test_decode_fedge : decode (.strobes 0b0000000000000000010#19) = .ok [.fedge] := by decide
theorem test_decode_mstick : decode (.strobes 0b0000000000000000100#19) = .ok [.mstick] := by decide
theorem test_decode_bedge : decode (.strobes 0b0000000000000001000#19) = .ok [.bedge] := by decide
theorem test_decode_all_strobes : decode (.strobes 0x0001F#19) = .ok [.tick, .fedge, .mstick, .bedge] := by decide
theorem test_ovf_has_no_word : encode .ovf = none := by decide
theorem test_decode_send : decode (.foreground 0b0010#4 true 0b0000000000001010000#19) = .ok [.send true] := by decide
theorem test_decode_phInit : decode (.foreground 0b0000#4 false 0b0000000000000010000#19) = .ok [.phInit] := by decide
theorem test_decode_phClear : decode (.foreground 0b0001#4 false 0b0000000000000010000#19) = .ok [.phClear] := by decide
theorem test_decode_phStart : decode (.foreground 0b0010#4 false 0b0000000000000010000#19) = .ok [.phStart] := by decide
theorem test_decode_phWait : decode (.foreground 0b0011#4 false 0x40030#19) = .ok [.phWait true 2048#12] := by decide
theorem test_decode_phDac : decode (.foreground 0b0100#4 false 0b0000000000000010000#19) = .ok [.phDac] := by decide
theorem test_decode_phCompute : decode (.foreground 0b0101#4 false 0b0000000000000010000#19) = .ok [.phCompute] := by decide
theorem test_decode_phMask : decode (.foreground 0b0110#4 false 0b0000000000000010000#19) = .ok [.phMask] := by decide
theorem test_decode_phRenderR : decode (.foreground 0b0111#4 false 0b0000000000000010000#19) = .ok [.phRenderR] := by decide
theorem test_decode_phRenderF : decode (.foreground 0b1000#4 false 0b0000000000000010000#19) = .ok [.phRenderF] := by decide
theorem test_decode_phUnmask : decode (.foreground 0b1001#4 false 0b0000000000000010000#19) = .ok [.phUnmask] := by decide
theorem test_decode_phDelayArm : decode (.foreground 0b1010#4 false 0b0000000000000010000#19) = .ok [.phDelayArm] := by decide
theorem test_decode_phDelayWait : decode (.foreground 0b1011#4 false 0b0000000000000010000#19) = .ok [.phDelayWait] := by decide
theorem test_decode_phStalled : decode (.foreground 0b1100#4 true 0b0000000000000010000#19) = .ok [.phStalled] := by decide
theorem test_decode_reserved : decode (.foreground 0b1101#4 true 0x00010#19) = .error (.reservedPhase 13#4) := by decide
theorem test_decode_initCmd : decode (.frame false 0b010110011#9) = .ok [.initCmd 0xB3#8] := by decide
theorem test_decode_pageSel : decode (.frame true 0b010110011#9) = .ok [.pageSel 3#3] := by decide
theorem test_decode_colLo : decode (.frame true 0b000001010#9) = .ok [.colLo 10#4] := by decide
theorem test_decode_colHi : decode (.frame true 0b000010111#9) = .ok [.colHi 7#4] := by decide
theorem test_decode_data : decode (.frame true 0b101010010#9) = .ok [.data 0x52#8] := by decide
theorem test_decode_unknown : decode (.frame true 0x0B8#9) = .error (.unknownCommand 0xB8#8) := by decide
theorem test_table_words :
    decodeTableWord 24 0x00002 = some .fedge ∧ decodeTableWord 8 9 = some .phUnmask ∧ decodeTableWord 8 13 = none ∧
      decodeTableWord 16 0x0B3 = some (.pageSel 3#3) ∧ decodeTableWord 24 0x80001 = none := by decide
theorem test_placed_word : look (step (State.reset.withFetchWord 8 2)) (fun t => (t.phase, t.adcTrace)) = some (3#4, [()]) := by decide
theorem test_placed_frame : look (step (State.reset.withFetchWord 16 0x0B3)) (fun t => t.dev.page) = some 3#3 := by decide

/-! ### One step per operation, expected values from 95_test_vectors.md -/

-- 2.1 V1, V3
theorem test_tick_stopped : look (exec .tick { State.reset with cnt := 777#32 }) State.cnt = some 777#32 := by decide
theorem test_tick_counts : look (exec .tick (armedAt 47999#32)) State.cnt = some 48000#32 := by decide
-- 2.1 V13; 60_exceptions.md R205
theorem test_tick_overflows :
    look (step (given 0x00001#19 { armedAt 0xFFFFFFFF#32 with hz := 1001#32 }))
      (fun t => (t.armed, t.cntRun, t.cnt, t.hz, t.diagTrace)) = some (false, false, 0#32, 1001#32, [2#2]) := by decide
theorem test_ovf_reports : look (exec .ovf (armedAt 0#32)) (fun t => (t.armed, t.cntRun, t.diagTrace)) = some (false, false, [2#2]) := by decide
-- 2.1 V6, V12
theorem test_fedge_closes : look (exec .fedge (armedAt 7#32)) (fun t => (t.armed, t.cnt, t.hz)) = some (false, 7#32, 6857143#32) := by decide
theorem test_fedge_too_fast :
    look (exec .fedge { armedAt 0#32 with hz := 1001#32 }) (fun t => (t.armed, t.hz, t.diagTrace)) = some (false, 1001#32, [1#2]) := by decide
-- 2.1 V15: the tick is first
theorem test_tick_before_fedge :
    look (step (given 0x00003#19 (armedAt 0#32))) (fun t => (t.armed, t.cnt, t.hz)) = some (false, 1#32, 48000001#32) := by decide
-- 2.2
theorem test_mstick_wraps : look (exec .mstick { State.reset with ms := 65535#16 }) State.ms = some 0#16 := by decide
theorem test_bedge_49 :
    look (exec .bedge { State.reset with ms := 43#16, lastAcc := 65530#16 }) (fun t => (t.lastAcc, t.btnTrace)) = some (65530#16, []) := by
  decide
theorem test_bedge_50 :
    look (exec .bedge { State.reset with ms := 44#16, lastAcc := 65530#16 }) (fun t => (t.lastAcc, t.btnTrace)) = some (44#16, [44#16]) := by
  decide
-- 2.3, the SEND paragraph
theorem test_send_poll :
    look (exec (.send false) { State.reset with txq := [0x0B0#9, 0x000#9] }) (fun t => (t.txq, t.waitCnt, t.busTrace)) =
      some ([0x0B0#9, 0x000#9], 1, []) := by decide
theorem test_send_ready :
    look (exec (.send true) { State.reset with txq := [0x0B0#9, 0x000#9], waitCnt := 1 }) (fun t => (t.txq, t.waitCnt, t.busTrace)) =
      some ([0x000#9], 0, [0x0B0#9]) := by decide
-- 2.5, the single phase steps
theorem test_phInit : look (exec .phInit State.reset) (fun t => (t.txq.length, t.phase)) = some (29, 1#4) := by decide
theorem test_phInit_bytes :
    look (exec .phInit { State.reset with params := fixtures }) (fun t => t.txq.take 3) = some [0x0A0#9, 0x0A1#9, 0x0A2#9] := by decide
theorem test_phClear_frames :
    look (exec .phClear (atPhase 1#4)) (fun t => (t.txq.take 4, t.phase)) = some ([0x0B0#9, 0x000#9, 0x010#9, 0x100#9], 2#4) := by
  decide +kernel
theorem test_phStart :
    look (exec .phStart { atPhase 2#4 with waitCnt := 5 }) (fun t => (t.adcTrace, t.waitCnt, t.phase)) = some ([()], 0, 3#4) := by decide
theorem test_phWait_sample :
    look (step (given 0x7FFB0#19 (atPhase 3#4))) (fun t => (t.sample, t.phase)) = some (4095#12, 4#4) := by decide
theorem test_phWait_bus_is_no_sample :
    look (step (given 0x00050#19 (atPhase 3#4))) (fun t => (t.waitCnt, t.phase)) = some (1, 3#4) := by decide
theorem test_phDac :
    look (exec .phDac { atPhase 4#4 with sample := 2048#12, dacData := 7#12 }) (fun t => (t.dacData, t.dacTrace, t.phase)) =
      some (2048#12, [2048#12], 5#4) := by decide
theorem test_phCompute_2048 :
    look (exec .phCompute { atPhase 5#4 with sample := 2048#12 }) (fun t => (t.ohms, t.phase)) = some (2500#32, 6#4) := by decide
theorem test_phCompute_4094 : look (exec .phCompute { atPhase 5#4 with sample := 4094#12 }) State.ohms = some 4998#32 := by decide
theorem test_phMask : look (exec .phMask (atPhase 6#4)) (fun t => (t.edgeMask, t.phase)) = some (true, 7#4) := by decide
-- 1.6, character 2 of the line and the number of frames
theorem test_phRenderR :
    look (exec .phRenderR { atPhase 7#4 with params := fixtures, ohms := 2500#32 })
      (fun t => (t.txq.length, (t.txq.drop 44).take 4, t.phase)) = some (143, [0x0B0#9, 0x000#9, 0x012#9, 0x132#9], 8#4) := by
  decide +kernel
theorem test_phRenderF :
    look (exec .phRenderF { atPhase 8#4 with hz := 48000001#32 }) (fun t => (t.txq.length, t.txq.take 3, t.phase)) =
      some (154, [0x0B1#9, 0x000#9, 0x010#9], 9#4) := by decide +kernel
-- 2.1 V27, V28
theorem test_phUnmask_closes :
    look (exec .phUnmask { armedAt 50000#32 with phase := 9#4, edgeMask := true, edgePend := true })
      (fun t => (t.armed, t.hz, t.edgeMask, t.edgePend, t.phase)) = some (false, 961#32, false, false, 10#4) := by decide
theorem test_phUnmask_too_fast :
    look (exec .phUnmask { armedAt 0#32 with phase := 9#4, edgeMask := true, edgePend := true })
      (fun t => (t.armed, t.diagTrace, t.hz, t.phase)) = some (false, [1#2], 0#32, 10#4) := by decide
theorem test_phDelayArm : look (exec .phDelayArm { atPhase 10#4 with ms := 777#16 }) (fun t => (t.delayT0, t.phase)) = some (777#16, 11#4) := by
  decide
theorem test_phDelayWait_99 :
    look (exec .phDelayWait { atPhase 11#4 with delayT0 := 65500#16, ms := 63#16 }) State.phase = some 11#4 := by decide
theorem test_phDelayWait_100 :
    look (exec .phDelayWait { atPhase 11#4 with delayT0 := 65500#16, ms := 64#16 }) State.phase = some 2#4 := by decide
theorem test_phStalled :
    look (step (given 0x002F0#19 { atPhase 12#4 with txq := [0x0B0#9] })) (fun t => (t.phase, t.txq, t.busTrace)) =
      some (12#4, [0x0B0#9], []) := by decide
-- 2.8, the device
theorem test_initCmd_only_counts :
    look (exec (.initCmd 0xB3#8) { screenAt 5#3 0#8 with dev := { (screenAt 5#3 0#8).dev with initCount := 28 } })
      (fun t => (t.dev.initCount, t.dev.page)) = some (29, 5#3) := by decide
theorem test_pageSel : look (exec (.pageSel 2#3) (screenAt 0#3 0#8)) (fun t => t.dev.page) = some 2#3 := by decide
theorem test_colLo : look (exec (.colLo 5#4) (screenAt 0#3 0x70#8)) (fun t => t.dev.col) = some 0x75#8 := by decide
theorem test_colHi : look (exec (.colHi 3#4) (screenAt 0#3 0x05#8)) (fun t => t.dev.col) = some 0x35#8 := by decide
theorem test_data_writes :
    look (exec (.data 0xAA#8) (screenAt 2#3 53#8)) (fun t => (t.dev.pixelColumn 2#3 53#7, Memory.read t.dev.fb (fbAddress 2#3 54#7), t.dev.col)) =
      some (0xAA#8, none, 54#8) := by decide
-- 20_memory.md R59: a byte that nothing has written holds the value drawn at power-on, before and after a write elsewhere
theorem test_fb_drawn_at_power_on :
    (Device.powerOn 0).pixelColumn 2#3 54#7 = Config.fbPowerOn 0 310 ∧
      look (exec (.data 0xAA#8) (screenAt 2#3 53#8)) (fun t => t.dev.pixelColumn 2#3 54#7) = some (Config.fbPowerOn 0 310) := ⟨rfl, rfl⟩
theorem test_data_past_127 : exec (.data 0xAA#8) (screenAt 2#3 128#8) = .refused .dataOutsideColumns := rfl
-- 2.3, columns with an origin; 2.4, the text lines
theorem test_setCol_with_origin :
    setColFrames { Params.default with colOrigin := 127#7 } 127#8 = [0x00E#9, 0x01F#9] ∧
      setColFrames { Params.default with colOrigin := 2#7 } 126#8 = [0x000#9, 0x018#9] := by decide
theorem test_setPage_masks : setPageFrames 255#8 = [0x0B7#9] := by decide
theorem test_text_counts :
    (textFrames Params.default 0#8 5 (List.replicate 20 0x41#7)).length = 165 ∧
      (textFrames Params.default 0#8 121 (List.replicate 3 0x41#7)).length = 0 := by decide +kernel
theorem test_lineF_zero :
    lineF 0#32 = [0x46#7, 0x3A#7, 0x20#7, 0x20#7, 0x20#7, 0x20#7, 0x20#7, 0x30#7, 0x20#7, 0x48#7, 0x7A#7] := by decide
-- 30_encoding.md R86
theorem test_script_words :
    (Primitive.ev [.mstick, .fg true none]).word = 0x00054#19 ∧ (Primitive.fg false (some 2048#12)).word = 0x40030#19 := by decide
-- 2.6 X6: two diagnostics in one step, in order
theorem test_overflow_and_stall :
    look (step (given 0x00011#19 { armedAt 0xFFFFFFFF#32 with params := limited 1 (by decide), phase := 3#4 }))
      (fun t => (t.diagTrace, t.armed, t.cnt, t.phase)) = some ([2#2, 3#2], false, 0#32, 12#4) := by decide

/-! ### Witnesses: concrete values that meet the hypotheses of each statement, clause by clause, at the edges of their ranges -/

theorem witness_StepRunsDecodedOperation :
    (∃ (s : State) (w : StimWord) (rest : List Input), s.inputs = .stim w :: rest) ∧
    (∃ (s : State) (w : StimWord) (rest : List Input) (i : Instr),
      s.inputs = .stim w :: rest ∧ decode (.strobes w) = .ok [i] ∧ w.fg = false) ∧
    (∃ (s : State) (w : StimWord) (rest : List Input) (i : Instr),
      s.inputs = .stim w :: rest ∧ decode (.strobes w) = .ok [] ∧ w.fg = true ∧
        decode (.foreground s.phase (!s.txq.isEmpty) w) = .ok [i]) ∧
    (∃ (s t : State) (w : StimWord) (rest : List Input) (f : Frame) (fs : List Frame) (i : Instr),
      s.inputs = .stim w :: rest ∧ decode (.strobes w) = .ok [] ∧ w.fg = false ∧ s.wire = f :: fs ∧
        decode (.frame (decide (29 ≤ s.dev.initCount)) f) = .ok [i] ∧ exec i { s with inputs := rest, wire := fs } = .next t) ∧
    (∃ (s : State) (f : Frame) (fs : List Frame) (i : Instr) (r : Refusal),
      s.wire = f :: fs ∧ decode (.frame (decide (29 ≤ s.dev.initCount)) f) = .ok [i] ∧ exec i { s with wire := fs } = .refused r) ∧
    (∃ (s : State) (f : Frame) (fs : List Frame) (e : DecodeError),
      s.wire = f :: fs ∧ decode (.frame (decide (29 ≤ s.dev.initCount)) f) = .error e) :=
  ⟨⟨given 0x0001F#19 State.reset, _, _, rfl⟩, ⟨given 0x00001#19 State.reset, _, _, .tick, rfl, rfl, rfl⟩,
    ⟨given 0x00010#19 State.reset, _, _, .phInit, rfl, rfl, rfl, rfl⟩,
    ⟨given 0x00000#19 { screenAt 0#3 0#8 with wire := [0x0B3#9] }, _, _, _, _, _, .pageSel 3#3, rfl, rfl, rfl, rfl, rfl, rfl⟩,
    ⟨{ State.reset with wire := [0x1AA#9] }, _, _, .data 0xAA#8, .dataBeforeInit, rfl, rfl, rfl⟩,
    ⟨{ screenAt 0#3 0#8 with wire := [0x0B8#9] }, _, _, .unknownCommand 0xB8#8, rfl, rfl⟩⟩

theorem witness_StimulusWordIsASequence : (0x7FFE0#19).toNat % 32 = 0 ∧ (atPhase 12#4).phase.toNat ≤ 12 := by decide

theorem witness_ForegroundStepSelectsOneOperation : (0#4).toNat < 12 ∧ (11#4).toNat < 12 := by decide

theorem witness_ReservedPhaseRefusesForeground :
    13 ≤ (atPhase 13#4).phase.toNat ∧ 13 ≤ (atPhase 15#4).phase.toNat ∧ (0x00010#19 : StimWord)[4] = true := by decide

theorem witness_FrameMapByPositionAndValue :
    0x0B0#9 &&& 0x1F8#9 = 0x0B0#9 ∧ 0x0B7#9 &&& 0x1F8#9 = 0x0B0#9 ∧ 0x00F#9 &&& 0x1F0#9 = 0x000#9 ∧ 0x01F#9 &&& 0x1F0#9 = 0x010#9 ∧
      0x1FF#9 &&& 0x100#9 = 0x100#9 ∧ 0x0FF#9 &&& 0x100#9 = 0x000#9 ∧ legalFrame 0x0B8#9 = false ∧ legalFrame 0x020#9 = false := by
  decide

theorem witness_DecodeEncodeRoundTrip : Instr.wellFormed (.phWait true 0xFFF#12) = true := by decide

theorem witness_ReadyBitsIgnoredWithoutForeground :
    (0x00001#19 : StimWord)[4] = false ∧ (0x00001#19).extractLsb' 0 5 = (0x7FFE1#19).extractLsb' 0 5 := by decide

theorem witness_TickAdvancesOrOverflows :
    State.reset.cntRun = false ∧ ((armedAt 0xFFFFFFFE#32).cntRun = true ∧ (armedAt 0xFFFFFFFE#32).cnt ≠ 0xFFFFFFFF#32) ∧
      ((armedAt 0xFFFFFFFF#32).cntRun = true ∧ (armedAt 0xFFFFFFFF#32).cnt = 0xFFFFFFFF#32) := by decide

/-- A state with the edge masked, under a masking parameter. -/
def masked (m : MaskedEdge) : State := { State.reset with params := { Params.default with maskedEdge := m }, edgeMask := true }

theorem witness_FedgeArmsClosesOrIsMasked :
    ((masked .latch).edgeMask = true ∧ (masked .latch).params.maskedEdge = .latch) ∧
      ((masked .drop).edgeMask = true ∧ (masked .drop).params.maskedEdge = .drop) ∧
      (State.reset.edgeMask = false ∧ State.reset.armed = false) ∧
      ((armedAt 0#32).edgeMask = false ∧ (armedAt 0#32).armed = true ∧ (armedAt 0#32).cnt - (armedAt 0#32).startTicks = 0#32) ∧
      ((armedAt 1#32).edgeMask = false ∧ (armedAt 1#32).armed = true ∧ (armedAt 1#32).cnt - (armedAt 1#32).startTicks ≠ 0#32) := by
  decide

theorem witness_OverflowForcesIdle : (armedAt 0xFFFFFFFF#32).cntRun = true ∧ (armedAt 0xFFFFFFFF#32).cnt = 0xFFFFFFFF#32 := by decide

theorem witness_FrequencyReadingIsExact :
    1#32 ≠ 0#32 ∧ 48000001#32 ≠ 0#32 ∧ Params.default.fTick.hertz < (48000001#32).toNat := by decide

theorem witness_CaptureFlagsAgree : ∃ t, CaptureInv (given 0x00003#19 (armedAt 5#32)) ∧ step (given 0x00003#19 (armedAt 5#32)) = .next t :=
  ⟨_, ⟨rfl, rfl⟩, rfl⟩

theorem witness_TickRunClosedForm :
    (armedAt 0xFFFFFFFE#32).wire = [] ∧ (armedAt 0xFFFFFFFE#32).cntRun ≠ false ∧ (armedAt 0xFFFFFFFE#32).cnt.toNat + 1 ≤ 0xFFFFFFFF ∧
      ¬ (armedAt 0xFFFFFFFE#32).cnt.toNat + 2 ≤ 0xFFFFFFFF := by decide

theorem witness_OverflowBeforeSecondEdge :
    (∃ (s : State) (rest : List Input), s.inputs = .stim 0x00003#19 :: rest ∧ s.wire = [] ∧ s.cntRun = true ∧ s.cnt = 0xFFFFFFFF#32 ∧
      s.edgeMask = false) ∧
    (∃ (s : State) (rest : List Input), s.inputs = .stim 0x00003#19 :: rest ∧ s.wire = [] ∧ s.cntRun = true ∧ s.cnt = 0xFFFFFFFF#32 ∧
      s.edgeMask = true ∧ s.params.maskedEdge = .latch) :=
  ⟨⟨given 0x00003#19 (armedAt 0xFFFFFFFF#32), _, rfl, rfl, rfl, rfl, rfl⟩,
    ⟨given 0x00003#19 { armedAt 0xFFFFFFFF#32 with edgeMask := true }, _, rfl, rfl, rfl, rfl, rfl, rfl⟩⟩

theorem witness_ReadingChangesOnlyOnClosingEdge :
    ∃ s t : State, TakesStimulus s ∧ step s = .next t ∧ t.hz ≠ s.hz :=
  ⟨given 0x00003#19 (armedAt 0#32), _, ⟨_, rfl⟩, rfl, by decide⟩

theorem witness_MaskWindowFreezesReading :
    (∃ s t : State, TakesStimulus s ∧ step s = .next t ∧ s.edgeMask = true ∧ t.edgeMask = true ∧ t.armed = true) ∧
    (∃ s t : State, TakesStimulus s ∧ step s = .next t ∧ s.edgeMask = true ∧ t.edgeMask = true ∧ s.armed = true ∧ t.armed = false) :=
  ⟨⟨given 0x00002#19 { armedAt 7#32 with edgeMask := true }, _, ⟨_, rfl⟩, rfl, rfl, rfl, rfl⟩,
    ⟨given 0x00001#19 { armedAt 0xFFFFFFFF#32 with edgeMask := true }, _, ⟨_, rfl⟩, rfl, rfl, rfl, rfl, rfl⟩⟩

theorem witness_MstickCountsModulo : ({ State.reset with ms := 65535#16 } : State).ms = 65535#16 := rfl

theorem witness_BedgeAcceptsFromFiftyTicks : 50 ≤ (44#16 - 65530#16).toNat ∧ (43#16 - 65530#16).toNat < 50 := by decide

theorem witness_ButtonEdgeStampedAfterTick :
    (∃ (s : State) (rest : List Input), s.inputs = .stim 0x0000C#19 :: rest ∧ s.wire = [] ∧ 50 ≤ (s.ms + 1#16 - s.lastAcc).toNat) ∧
    (∃ (s : State) (rest : List Input), s.inputs = .stim 0x0000C#19 :: rest ∧ s.wire = [] ∧ ¬ 50 ≤ (s.ms + 1#16 - s.lastAcc).toNat) :=
  ⟨⟨given 0x0000C#19 { State.reset with ms := 49#16 }, _, rfl, rfl, by decide⟩,
    ⟨given 0x0000C#19 { State.reset with ms := 48#16 }, _, rfl, rfl, by decide⟩⟩

theorem witness_AcceptedEdgesAreFiftyApart :
    ∃ s t : State, TakesStimulus s ∧ step s = .next t ∧ t.btnTrace ≠ s.btnTrace :=
  ⟨given 0x00008#19 { State.reset with ms := 50#16 }, _, ⟨_, rfl⟩, rfl, by decide⟩

theorem witness_EventsStayOnTheirSide :
    Instr.context .fedge = .event ∧ SameEventSide (armedAt 3#32) { armedAt 3#32 with phase := 5#4, sample := 9#12 } := by
  refine ⟨rfl, rfl, rfl, rfl, rfl, rfl, rfl, rfl, rfl, rfl, rfl, rfl, rfl⟩

theorem witness_ForegroundStaysOnItsSide :
    (∃ s t : State, Instr.context .phMask = .foreground ∧ Instr.phMask ≠ .phUnmask ∧ exec .phMask s = .next t) ∧
    (∃ s t : State, exec .phUnmask s = .next t) :=
  ⟨⟨atPhase 6#4, _, rfl, by decide, rfl⟩, ⟨{ armedAt 9#32 with edgePend := true }, _, rfl⟩⟩

theorem witness_AtMostTwoDiagnosticsInOrder :
    ∃ s t : State, TakesStimulus s ∧ step s = .next t ∧ t.diagTrace = [2#2, 3#2] :=
  ⟨given 0x00011#19 { armedAt 0xFFFFFFFF#32 with params := limited 1 (by decide), phase := 3#4 }, _, ⟨_, rfl⟩, rfl, rfl⟩

theorem witness_TracesGrowAndParametersStay : ∃ s t : State, step s = .next t ∧ TakesStimulus s ∧ t.dacTrace ≠ s.dacTrace :=
  ⟨given 0x00010#19 (atPhase 4#4), _, rfl, ⟨_, rfl⟩, by decide⟩

theorem witness_SendShiftsHeadOrPolls :
    (11#4).toNat < 12 ∧ ({ State.reset with txq := [0x0B0#9, 0x000#9] } : State).txq = 0x0B0#9 :: [0x000#9] ∧
      limitReached (limited 3 (by decide)).waitLimit (1 + 1) = false ∧ limitReached (limited 3 (by decide)).waitLimit (2 + 1) = true := by
  decide

theorem witness_SendNeedsAQueuedFrame : State.reset.txq = [] := rfl

theorem witness_FrameCountsOfTheDriver : (99999#32).toNat ≤ 99999 := by decide

theorem witness_DriverExpandsOrRefuses :
    (127#8).toNat ≤ 127 ∧ 127 < (128#8).toNat ∧ ((120#8).toNat ≤ 120 ∧ (0x7F#8).toNat < 0x80) ∧ 120 < (121#8).toNat ∧
      0x80 ≤ (0x80#8).toNat ∧ (∀ c ∈ [0x7F#8], c.toNat < 0x80) ∧ ∃ c ∈ [0x41#8, 0x80#8], 0x80 ≤ c.toNat := by decide

theorem witness_InitFramesOnlyCount :
    State.reset.dev.initCount < 29 ∧ ({ screenAt 0#3 0#8 with dev := { (screenAt 0#3 0#8).dev with initCount := 28 } } : State).dev.initCount < 29 := by
  decide

theorem witness_CommandsDecodeByValue :
    29 ≤ (screenAt 0#3 0#8).dev.initCount ∧ (0xB7#8).extractLsb' 3 5 = 0b10110#5 ∧ (0x0F#8).extractLsb' 4 4 = 0b0000#4 ∧
      (0x1F#8).extractLsb' 4 4 = 0b0001#4 ∧
      ((0xB8#8).extractLsb' 3 5 ≠ 0b10110#5 ∧ (0xB8#8).extractLsb' 4 4 ≠ 0b0000#4 ∧ (0xB8#8).extractLsb' 4 4 ≠ 0b0001#4) := by decide

/-- The display of `screenAt` under a column origin of 2. -/
def shiftedScreen (col : Byte) : State := { screenAt 0#3 col with params := { Params.default with colOrigin := 2#7 } }

theorem witness_DataWritesOneByteAndAdvances :
    29 ≤ (shiftedScreen 2#8).dev.initCount ∧
      ((shiftedScreen 2#8).params.colOrigin.toNat ≤ (shiftedScreen 2#8).dev.col.toNat ∧
        (shiftedScreen 2#8).dev.col.toNat - (shiftedScreen 2#8).params.colOrigin.toNat ≤ 127) ∧
      ((shiftedScreen 129#8).params.colOrigin.toNat ≤ (shiftedScreen 129#8).dev.col.toNat ∧
        (shiftedScreen 129#8).dev.col.toNat - (shiftedScreen 129#8).params.colOrigin.toNat ≤ 127) ∧
      (shiftedScreen 1#8).dev.col.toNat < (shiftedScreen 1#8).params.colOrigin.toNat ∧
      127 < (shiftedScreen 130#8).dev.col.toNat - (shiftedScreen 130#8).params.colOrigin.toNat := by decide

theorem witness_GlyphLandsInItsColumns : (120#8).toNat ≤ 120 ∧ 29 ≤ (screenAt 0#3 0#8).dev.initCount := by decide

theorem witness_ClearZeroesTheScreen : 29 ≤ (screenAt 7#3 200#8).dev.initCount := by decide

theorem witness_TextLandsOnTheScreen :
    29 ≤ (screenAt 0#3 0#8).dev.initCount ∧ (([0x41#7, 0x42#7] : List CharCode).take (drawnFrom 112))[1]? = some 0x42#7 ∧
      (([0x41#7, 0x42#7] : List CharCode).take (drawnFrom 120)).length = 1 := by decide

theorem witness_AnalogPhasesStartPassAndCompute : State.reset.params.ohmsTable = [] := rfl

theorem witness_WaitReadsOrPolls :
    limitReached State.reset.params.waitLimit (State.reset.waitCnt + 1) = false ∧
      limitReached (limited 1 (by decide)).waitLimit (State.reset.waitCnt + 1) = true := by decide

theorem witness_DefaultOhmsIsMonotoneFloor : (4094#12).toNat ≤ (4095#12).toNat := by decide

theorem witness_MaskAndUnmaskTheEdge :
    State.reset.edgePend = false ∧
      (({ State.reset with edgePend := true } : State).edgePend = true ∧ ({ State.reset with edgePend := true } : State).armed = false) ∧
      (({ armedAt 0#32 with edgePend := true } : State).armed = true ∧ (armedAt 0#32).cnt - (armedAt 0#32).startTicks = 0#32) ∧
      (({ armedAt 1#32 with edgePend := true } : State).armed = true ∧ (armedAt 1#32).cnt - (armedAt 1#32).startTicks ≠ 0#32) := by
  decide

theorem witness_PacingDelayLastsHundredTicks : 100 ≤ (64#16 - 65500#16).toNat ∧ (63#16 - 65500#16).toNat < 100 := by decide

theorem witness_StalledForegroundDoesNothing : (atPhase 12#4).phase = 12#4 ∧ (0x00050#19 : StimWord)[4] = true := by decide

theorem witness_StallIsForEver :
    ∃ s t : State, TakesStimulus s ∧ s.phase = 12#4 ∧ step s = .next t :=
  ⟨given 0x00013#19 { armedAt 0xFFFFFFFF#32 with phase := 12#4, txq := [0x0B0#9] }, _, ⟨_, rfl⟩, rfl, rfl⟩

theorem witness_DecimalDigitsAreTheValue : (dec 0#32).head? = some 0x30#7 := by decide

theorem witness_PhaseFollowsSuccessorTable :
    (∃ s t : State, TakesStimulus s ∧ PhaseInv s ∧ step s = .next t ∧ t.phase = successor s.phase) ∧
    (∃ s t : State, TakesStimulus s ∧ PhaseInv s ∧ step s = .next t ∧ t.phase = 12#4) :=
  ⟨⟨given 0x00010#19 { atPhase 11#4 with ms := 100#16 }, _, ⟨_, rfl⟩, rfl, rfl, rfl⟩,
    ⟨given 0x00010#19 { atPhase 3#4 with params := limited 1 (by decide) }, _, ⟨_, rfl⟩, rfl, rfl, rfl⟩⟩

theorem witness_MaskBracketsTheRefresh :
    ∃ t, MaskInv (given 0x00010#19 { atPhase 9#4 with edgeMask := true, edgePend := true }) ∧
      step (given 0x00010#19 { atPhase 9#4 with edgeMask := true, edgePend := true }) = .next t :=
  ⟨_, ⟨by decide, by decide⟩, rfl⟩

theorem witness_OneCodePerIteration :
    ∃ t, IterationInv (given 0x00010#19 { atPhase 6#4 with sample := 2048#12, dacData := 2048#12, ohms := 2500#32 }) ∧
      step (given 0x00010#19 { atPhase 6#4 with sample := 2048#12, dacData := 2048#12, ohms := 2500#32 }) = .next t :=
  ⟨_, ⟨by decide, by decide⟩, rfl⟩

theorem witness_ResetInputGivesResetValues :
    ∃ (s : State) (rest : List Input), s.inputs = .rst :: rest :=
  ⟨{ armedAt 5#32 with inputs := [.rst] }, _, rfl⟩

theorem witness_EveryStimulusIsAccepted : PhaseInv State.reset ∧ PhaseInv (atPhase 12#4) := ⟨rfl, rfl⟩

theorem witness_DisplayMemoryStaysCanonical :
    ∃ s t : State, MemoryInv s ∧ step s = .next t ∧ t.dev.fb = [(5, 0xAA#8), (53, 0xBB#8)] :=
  ⟨given 0x00000#19 { State.reset with
      wire := [0x1BB#9], dev := { powerOns := 0, initCount := 29, page := 0#3, col := 53#8, fb := [(5, 0xAA#8)] } },
    _, ⟨by decide, by decide⟩, rfl, rfl⟩

/-- The sequencer with the start-up done: the init list and the clear on the bus. -/
def started : State := { atPhase 7#4 with busTrace := framesOf Params.default [], inputs := [.stim 0x00010#19] }

theorem witness_BusKeepsItsShape : ∃ t, BusInv started ∧ step started = .next t :=
  ⟨_, ⟨[], List.append_nil _⟩, rfl⟩

/-- The sequencer in the middle of the init list: one frame sent, 28 queued. -/
def initiating : State :=
  { atPhase 1#4 with
    busTrace := [cmdFrame 0xAE#8], txq := List.replicate 28 (cmdFrame 0xA0#8)
    dev := { Device.powerOn 0 with initCount := 1 }, inputs := [.stim 0x00050#19] }

theorem witness_DisplayNeverRefusesAFrame : ∃ t, PhaseInv initiating ∧ DisplayInv initiating ∧ step initiating = .next t :=
  ⟨_, rfl, ⟨rfl, rfl, by decide, fun _ => ⟨by decide, rfl⟩, fun _ h => absurd rfl h⟩, rfl⟩

theorem witness_ReadyBusDrainsTheQueue : ({ atPhase 11#4 with txq := [0x0B0#9, 0x100#9] } : State).phase.toNat < 12 := by decide

end Sys2Proof.Tests
end

section
/-! SUPPORT. The decimal text of a number (00_scope.md R10): value, digit range, length and leading digit of `decDigits`, each by induction on
its fuel, then `dec` at the 10 digits a 32-bit value needs. -/

namespace Sys2Proof.Machine

theorem digitCode_toNat {d : Nat} (h : d < 10) : (digitCode d).toNat = 0x30 + d := by
  rw [digitCode, BitVec.toNat_ofNat]
  omega

theorem decDigits_of_lt {n : Nat} (h : n < 10) (fuel : Nat) : decDigits (fuel + 1) n = [digitCode n] := by
  simp [decDigits, h]

theorem decDigits_of_ge {n : Nat} (h : 10 ≤ n) (fuel : Nat) :
    decDigits (fuel + 1) n = decDigits fuel (n / 10) ++ [digitCode (n % 10)] := by
  simp [decDigits, Nat.not_lt.mpr h]

/-- What Horner's rule reads in base 10 from a list of digit characters, as `Obligations.DecimalDigitsAreTheValue` writes it out. -/
def decimalValue (cs : List CharCode) : Nat := cs.foldl (fun n c => 10 * n + (c.toNat - 0x30)) 0

theorem decimalValue_append_digit (cs : List CharCode) {d : Nat} (h : d < 10) :
    decimalValue (cs ++ [digitCode d]) = 10 * decimalValue cs + d := by
  simp [decimalValue, List.foldl_append, digitCode_toNat h]

theorem decimalValue_decDigits {fuel n : Nat} (h : n < 10 ^ fuel) : decimalValue (decDigits fuel n) = n := by
  induction fuel generalizing n with
  | zero =>
    have hn : n = 0 := by simpa using h
    exact hn.symm
  | succ fuel ih =>
    by_cases hn : n < 10
    · simpa [decDigits_of_lt hn, decimalValue] using decimalValue_append_digit [] hn
    · rw [decDigits_of_ge (Nat.le_of_not_lt hn), decimalValue_append_digit _ (Nat.mod_lt n (by decide)), ih (by omega)]
      omega

theorem decDigits_are_digits {fuel n : Nat} {c : CharCode} (h : c ∈ decDigits fuel n) : ∃ d < 10, c = digitCode d := by
  induction fuel generalizing n with
  | zero => simp [decDigits] at h
  | succ fuel ih =>
    by_cases hn : n < 10
    · exact ⟨n, hn, by simpa [decDigits_of_lt hn] using h⟩
    · rw [decDigits_of_ge (Nat.le_of_not_lt hn), List.mem_append, List.mem_singleton] at h
      exact h.elim ih fun hc => ⟨n % 10, Nat.mod_lt n (by decide), hc⟩

theorem decDigits_length_pos (fuel n : Nat) : 1 ≤ (decDigits (fuel + 1) n).length := by
  by_cases hn : n < 10
  · simp [decDigits_of_lt hn]
  · simp [decDigits_of_ge (Nat.le_of_not_lt hn)]

theorem decDigits_length_le (fuel n : Nat) : (decDigits fuel n).length ≤ fuel := by
  induction fuel generalizing n with
  | zero => simp [decDigits]
  | succ fuel ih =>
    by_cases hn : n < 10
    · simp [decDigits_of_lt hn]
    · simpa [decDigits_of_ge (Nat.le_of_not_lt hn)] using ih (n / 10)

/-- No leading zero, unless the fuel ends before the digits do. -/
theorem decDigits_head_pos {fuel n : Nat} (h0 : 0 < n) (h : n < 10 ^ fuel) :
    ∃ d, 0 < d ∧ d < 10 ∧ (decDigits fuel n).head? = some (digitCode d) := by
  induction fuel generalizing n with
  | zero => omega
  | succ fuel ih =>
    by_cases hn : n < 10
    · exact ⟨n, h0, hn, by simp [decDigits_of_lt hn]⟩
    · obtain ⟨d, hd0, hd, hhead⟩ := ih (n := n / 10) (by omega) (by omega)
      exact ⟨d, hd0, hd, by simp [decDigits_of_ge (Nat.le_of_not_lt hn), hhead]⟩

/-- Only the number 0 has a text that begins with the character `0`. -/
theorem decDigits_eq_of_head_zero {fuel n : Nat} (h : n < 10 ^ (fuel + 1)) (hhead : (decDigits (fuel + 1) n).head? = some 0x30#7) :
    decDigits (fuel + 1) n = [0x30#7] := by
  rcases Nat.eq_zero_or_pos n with rfl | h0
  · exact decDigits_of_lt (by decide) fuel
  · obtain ⟨d, hd0, hd, hdhead⟩ := decDigits_head_pos h0 h
    have hcode : digitCode d = 0x30#7 := Option.some.inj (hdhead.symm.trans hhead)
    have hval : 0x30 + d = 0x30 := (digitCode_toNat hd).symm.trans (congrArg BitVec.toNat hcode)
    omega

/-- Settles O48: a 32-bit value has at most 10 decimal digits, so the fuel of `dec` suffices for the laws of `decDigits`. -/
theorem decimalDigitsAreTheValue : Obligations.DecimalDigitsAreTheValue := by
  intro v
  have hv : v.toNat < 10 ^ 10 := v.isLt.trans (by decide)
  refine ⟨decimalValue_decDigits hv, fun c hc => ?_, decDigits_length_pos 9 _, decDigits_length_le 10 _,
    decDigits_eq_of_head_zero hv⟩
  obtain ⟨d, hd, rfl⟩ := decDigits_are_digits hc
  rw [digitCode_toNat hd]
  omega

end Sys2Proof.Machine
end

section
/-! SUPPORT. A step on a stimulus word: what its parts keep it keeps, and it only appends to the traces (00_scope.md R11, 20_memory.md R67). -/

namespace Sys2Proof.Machine

/-- Taking an input changes the inputs still to come and nothing else. -/
theorem afterInput_frame (s : State) : ∃ ins n, afterInput s = { s with inputs := ins, envStep := n } := by
  unfold afterInput
  split
  · exact ⟨_, s.envStep, rfl⟩
  · exact ⟨s.inputs, _, rfl⟩

/-- A step on a stimulus word is the global step of that word. -/
theorem step_takesStimulus {s : State} (h : TakesStimulus s) : ∃ w, step s = globalStep w (afterInput s) := by
  obtain ⟨w, hw⟩ := h
  exact ⟨w, by rw [step, hw]; rfl⟩

/-- An invariant that every event, every foreground operation where it is selected, and the display's turn keep, a global step keeps:
`step_keeps` without the input and the reset. -/
theorem globalStep_keeps {P : State → Prop}
    (hev : ∀ i s t, i = .tick ∨ i = .fedge ∨ i = .mstick ∨ i = .bedge → P s → exec i s = .next t → P t)
    (hfg : ∀ w i s t, decodeForeground s.phase (!s.txq.isEmpty) w = .ok i → P s → exec i s = .next t → P t)
    (hdev : ∀ s, P s → P (devicePart s)) {w : StimWord} {s t : State} (hs : P s) (h : globalStep w s = .next t) : P t := by
  obtain ⟨e, f, he, hf, rfl⟩ := globalStep_next h
  have hPe : P e := execAll_keeps (fun i hi u v => hev i u v (mem_decodeEvents hi)) hs he
  rcases foregroundPart_cases hf with ⟨-, rfl⟩ | ⟨-, i, hi, hx⟩
  · exact hdev _ hPe
  · exact hdev _ (hfg w i e f hi hPe hx)

/-- From `s` to `t` the parameters stay and each of the five traces is extended. -/
def OnlyAppends (s t : State) : Prop :=
  t.params = s.params ∧ s.busTrace <+: t.busTrace ∧ s.diagTrace <+: t.diagTrace ∧ s.btnTrace <+: t.btnTrace ∧
    s.dacTrace <+: t.dacTrace ∧ s.adcTrace <+: t.adcTrace

theorem OnlyAppends.refl (s : State) : OnlyAppends s s := by simp [OnlyAppends]

theorem OnlyAppends.trans {s t u : State} (h : OnlyAppends s t) (h' : OnlyAppends t u) : OnlyAppends s u := by
  obtain ⟨hp, hbus, hdiag, hbtn, hdac, hadc⟩ := h
  obtain ⟨hp', hbus', hdiag', hbtn', hdac', hadc'⟩ := h'
  exact ⟨hp'.trans hp, hbus.trans hbus', hdiag.trans hdiag', hbtn.trans hbtn', hdac.trans hdac', hadc.trans hadc'⟩

theorem onlyAppends_capEdge (s : State) : OnlyAppends s (capEdge s) := by
  rcases capEdge_cases s with ⟨-, h⟩ | ⟨-, -, h⟩ | ⟨-, -, h⟩ <;> simp [h, OnlyAppends]

theorem onlyAppends_pollFailed (s : State) : OnlyAppends s (pollFailed s) := by
  rcases pollFailed_cases s with ⟨-, h⟩ | ⟨-, h⟩ <;> simp [h, OnlyAppends]

theorem onlyAppends_event {i : Instr} {s t : State} (hi : i = .tick ∨ i = .fedge ∨ i = .mstick ∨ i = .bedge)
    (h : exec i s = .next t) : OnlyAppends s t := by
  rcases exec_event_cases hi h with ⟨-, ht⟩ | ⟨-, ht⟩ | ⟨-, rfl⟩ | ⟨-, ht⟩
  · rcases ht with ⟨-, rfl⟩ | ⟨-, -, rfl⟩ | ⟨-, -, rfl⟩ <;> simp [OnlyAppends]
  · rcases ht with ⟨-, -, rfl⟩ | ⟨-, -, rfl⟩ | ⟨-, rfl⟩
    · simp [OnlyAppends]
    · exact .refl _
    · exact onlyAppends_capEdge s
  · simp [OnlyAppends]
  · rcases ht with ⟨-, rfl⟩ | ⟨-, rfl⟩ <;> simp [OnlyAppends]

theorem onlyAppends_foreground {w : StimWord} {i : Instr} {s t : State}
    (hi : decodeForeground s.phase (!s.txq.isEmpty) w = .ok i) (h : exec i s = .next t) : OnlyAppends s t := by
  rcases exec_foreground_cases hi h with ⟨-, -, rfl⟩ | ⟨-, -, f, rest, -, rfl | rfl⟩ | ⟨-, hphase⟩
  · exact .refl t
  · simp [OnlyAppends]
  · exact onlyAppends_pollFailed s
  rcases hphase with ⟨-, -, rfl⟩ | ⟨-, -, rfl⟩ | ⟨-, -, rfl⟩ | ⟨-, -, hwait⟩ | ⟨-, -, rfl⟩ | ⟨-, -, rfl⟩ | ⟨-, -, rfl⟩ | ⟨-, -, rfl⟩ |
    ⟨-, -, rfl⟩ | ⟨-, -, hunmask⟩ | ⟨-, -, rfl⟩ | ⟨-, -, hdelay⟩
  · simp [OnlyAppends]
  · simp [OnlyAppends]
  · simp [OnlyAppends]
  · rcases hwait with rfl | rfl
    · simp [OnlyAppends]
    · exact onlyAppends_pollFailed s
  · simp [OnlyAppends]
  · simp [OnlyAppends]
  · simp [OnlyAppends]
  · simp [OnlyAppends]
  · simp [OnlyAppends]
  · rcases hunmask with ⟨-, rfl⟩ | ⟨-, rfl⟩
    · exact onlyAppends_capEdge { s with edgeMask := false, edgePend := false }
    · simp [OnlyAppends]
  · simp [OnlyAppends]
  · rcases hdelay with rfl | rfl <;> simp [OnlyAppends]

theorem onlyAppends_devicePart (s : State) : OnlyAppends s (devicePart s) := by
  obtain ⟨d, wire, h⟩ := devicePart_frame s
  simp [h, OnlyAppends]

theorem onlyAppends_step {s t : State} (hw : TakesStimulus s) (h : step s = .next t) : OnlyAppends s t := by
  obtain ⟨w, hstep⟩ := step_takesStimulus hw
  refine globalStep_keeps (P := OnlyAppends s) (fun i u v hi hu hx => hu.trans (onlyAppends_event hi hx))
    (fun w i u v hi hu hx => hu.trans (onlyAppends_foreground hi hx)) (fun u hu => hu.trans (onlyAppends_devicePart u)) ?_
    (hstep.symm.trans h)
  obtain ⟨ins, n, hin⟩ := afterInput_frame s
  simp [hin, OnlyAppends]

/-- No step writes the parameters, a reset neither: they are no registers (assumption log 3). -/
theorem step_params {s t : State} (h : step s = .next t) : t.params = s.params := by
  cases hi : nextInput s with
  | rst =>
    obtain ⟨ins, n, hin⟩ := afterInput_frame s
    rw [step, hi, hin] at h
    cases h
    rfl
  | stim w =>
    obtain ⟨hparams, -⟩ := onlyAppends_step ⟨w, hi⟩ h
    exact hparams

/-- Settles O25: on a stimulus word every part of the step only appends, and a reset keeps the parameters. -/
theorem tracesGrowAndParametersStay : Obligations.TracesGrowAndParametersStay := fun _ _ h =>
  ⟨step_params h, fun hw => (onlyAppends_step hw h).2⟩

end Sys2Proof.Machine
end

section
/-! SUPPORT. The two contexts (10_state.md R47, 60_exceptions.md R210, R212): an event operation commutes with a change of the other side, and
a foreground operation but `PH_UNMASK` leaves the event side. -/

namespace Sys2Proof.Machine

/-! ### Event operations -/

/-- The event context's operations: the overflow, and the four a stimulus word selects. -/
theorem context_event {i : Instr} (hi : Instr.context i = .event) :
    i = .ovf ∨ i = .tick ∨ i = .fedge ∨ i = .mstick ∨ i = .bedge := by
  cases i with
  | tick | ovf | fedge | mstick | bedge => simp
  | _ => cases hi

/-- From `s` to `t` the foreground's registers and outputs and the outside stay: what an event operation may not write. -/
def LeavesOtherSide (s t : State) : Prop := SameForegroundSide s t ∧ SameOutside s t

theorem LeavesOtherSide.refl (s : State) : LeavesOtherSide s s := by simp [LeavesOtherSide, SameForegroundSide, SameOutside]

/-- A qualifying edge writes the capture registers and may report: nothing of the foreground's (41_capture.md R102, R103). -/
theorem leavesOtherSide_capEdge (s : State) : LeavesOtherSide s (capEdge s) := by
  rcases capEdge_cases s with ⟨-, h⟩ | ⟨-, -, h⟩ | ⟨-, -, h⟩ <;> simp [h, LeavesOtherSide, SameForegroundSide, SameOutside]

theorem leavesOtherSide_event {i : Instr} {s t : State} (hi : Instr.context i = .event) (h : exec i s = .next t) : LeavesOtherSide s t := by
  rcases context_event hi with rfl | hev
  · cases h
    simp [overflow_eq, LeavesOtherSide, SameForegroundSide, SameOutside]
  rcases exec_event_cases hev h with ⟨-, ht⟩ | ⟨-, ht⟩ | ⟨-, rfl⟩ | ⟨-, ht⟩
  · rcases ht with ⟨-, rfl⟩ | ⟨-, -, rfl⟩ | ⟨-, -, rfl⟩ <;> simp [LeavesOtherSide, SameForegroundSide, SameOutside]
  · rcases ht with ⟨-, -, rfl⟩ | ⟨-, -, rfl⟩ | ⟨-, rfl⟩
    · simp [LeavesOtherSide, SameForegroundSide, SameOutside]
    · exact .refl _
    · exact leavesOtherSide_capEdge s
  · simp [LeavesOtherSide, SameForegroundSide, SameOutside]
  · rcases ht with ⟨-, rfl⟩ | ⟨-, rfl⟩ <;> simp [LeavesOtherSide, SameForegroundSide, SameOutside]

/-- No branch of an event operation stops the block (60_exceptions.md R210). -/
theorem exec_event_completes {i : Instr} (hi : Instr.context i = .event) (s : State) : ∃ t, exec i s = .next t := by
  rcases context_event hi with rfl | rfl | rfl | rfl | rfl
  · exact ⟨_, rfl⟩
  · simp only [exec, execTick]
    split_ifs <;> exact ⟨_, rfl⟩
  · simp only [exec, execFedge]
    split_ifs
    · cases s.params.maskedEdge <;> exact ⟨_, rfl⟩
    · exact ⟨_, rfl⟩
  · exact ⟨_, rfl⟩
  · simp only [exec, execBedge]
    split_ifs <;> exact ⟨_, rfl⟩

/-- The state `t` with everything of `SameEventSide` taken from `s`. -/
def withEventSide (t s : State) : State :=
  { t with
    armed := s.armed, cnt := s.cnt, cntRun := s.cntRun, startTicks := s.startTicks, hz := s.hz, ms := s.ms, lastAcc := s.lastAcc,
    edgePend := s.edgePend, diagTrace := s.diagTrace, btnTrace := s.btnTrace, edgeMask := s.edgeMask, params := s.params }

theorem sameEventSide_withEventSide (t s : State) : SameEventSide s (withEventSide t s) := by simp [SameEventSide, withEventSide]

theorem withEventSide_of_same {s t : State} (h : SameEventSide s t) : withEventSide t s = t := by
  obtain ⟨h₁, h₂, h₃, h₄, h₅, h₆, h₇, h₈, h₉, h₁₀, h₁₁, h₁₂⟩ := h
  simp only [withEventSide, h₁, h₂, h₃, h₄, h₅, h₆, h₇, h₈, h₉, h₁₀, h₁₁, h₁₂]

theorem capEdge_withEventSide (t s : State) : capEdge (withEventSide t s) = withEventSide t (capEdge s) := by
  change (if s.armed then closingEdge (withEventSide t s) else armingEdge (withEventSide t s)) = _
  rcases capEdge_cases s with ⟨ha, h⟩ | ⟨ha, he, h⟩ | ⟨ha, he, h⟩ <;> rw [h, ha]
  · rfl
  · exact closingEdge_zero (s := withEventSide t s) he
  · exact closingEdge_reading (s := withEventSide t s) he

/-- An event operation does the same whatever stands on the other side: it commutes with `withEventSide t`. -/
theorem exec_event_withEventSide {i : Instr} (hi : Instr.context i = .event) (t s : State) :
    exec i (withEventSide t s) = andThen (exec i s) fun s' => .next (withEventSide t s') := by
  rcases context_event hi with rfl | rfl | rfl | rfl | rfl
  · rfl
  · change execTick _ = andThen (execTick s) _
    by_cases hr : s.cntRun = true
    · by_cases hc : s.cnt = 0xFFFFFFFF#32
      · simp [execTick, withEventSide, hr, hc, overflow_eq]
      · simp [execTick, withEventSide, hr, hc]
    · simp [execTick, withEventSide, hr]
  · change execFedge _ = andThen (execFedge s) _
    by_cases hm : s.edgeMask = true
    · cases hp : s.params.maskedEdge <;> simp [execFedge, withEventSide, hm, hp]
    · have hm' : (withEventSide t s).edgeMask ≠ true := hm
      simp only [execFedge, if_neg hm, if_neg hm', capEdge_withEventSide, andThen_next]
  · rfl
  · change execBedge _ = andThen (execBedge s) _
    by_cases hd : debounceAccepts s.ms s.lastAcc = true <;> simp [execBedge, withEventSide, hd, emitButton]

/-- Settles O22: a state that agrees with `s` on the event side is `withEventSide t s`, so its event is the event at `s`. -/
theorem eventsStayOnTheirSide : Obligations.EventsStayOnTheirSide := by
  intro i s t hi hst
  obtain ⟨s', hs⟩ := exec_event_completes hi s
  have ht : exec i t = .next (withEventSide t s') := by
    have hcomm := exec_event_withEventSide hi t s
    rwa [withEventSide_of_same hst, hs] at hcomm
  obtain ⟨hsf, hso⟩ := leavesOtherSide_event hi hs
  obtain ⟨htf, hto⟩ := leavesOtherSide_event hi ht
  exact ⟨s', _, hs, ht, sameEventSide_withEventSide t s', hsf, hso, htf, hto⟩

/-! ### Foreground operations -/

/-- From `s` to `t` the event registers, the button trace, the display, the inputs and the parameters stay; `EDGE_MASK` stays unless `i` is
`PH_MASK`. -/
def LeavesEventSide (i : Instr) (s t : State) : Prop :=
  t.armed = s.armed ∧ t.cnt = s.cnt ∧ t.cntRun = s.cntRun ∧ t.startTicks = s.startTicks ∧ t.hz = s.hz ∧ t.ms = s.ms ∧
  t.lastAcc = s.lastAcc ∧ t.edgePend = s.edgePend ∧ t.btnTrace = s.btnTrace ∧ (i ≠ .phMask → t.edgeMask = s.edgeMask) ∧
  t.dev = s.dev ∧ t.inputs = s.inputs ∧ t.envStep = s.envStep ∧ t.params = s.params

theorem leavesEventSide_pollFailed (i : Instr) (s : State) : LeavesEventSide i s (pollFailed s) := by
  rcases pollFailed_cases s with ⟨-, h⟩ | ⟨-, h⟩ <;> simp [h, LeavesEventSide]

/-- A foreground operation but `PH_UNMASK` leaves the event side (10_state.md R47). -/
theorem leavesEventSide_foreground {i : Instr} {s t : State} (hi : Instr.context i = .foreground) (hu : i ≠ .phUnmask)
    (h : exec i s = .next t) : LeavesEventSide i s t := by
  cases i with
  | send busRdy =>
    change execSend busRdy s = _ at h
    unfold execSend at h
    split at h
    · cases h
    split at h <;> cases h
    · simp [transfer_eq, LeavesEventSide]
    · exact leavesEventSide_pollFailed _ s
  | phWait adcRdy adcData =>
    cases adcRdy <;> cases h
    · exact leavesEventSide_pollFailed _ s
    · simp [LeavesEventSide]
  | phDelayWait =>
    change execPhDelayWait s = _ at h
    unfold execPhDelayWait at h
    split at h <;> cases h <;> simp [LeavesEventSide]
  | phInit | phClear | phStart | phDac | phCompute | phMask | phRenderR | phRenderF | phDelayArm | phStalled =>
    cases h
    simp [LeavesEventSide]
  | phUnmask => exact absurd rfl hu
  | _ => cases hi

/-- `PH_UNMASK` delivers a pending edge, or only unmasks (44_sampling.md R173). -/
theorem exec_phUnmask_cases {s t : State} (h : exec .phUnmask s = .next t) :
    t = goto phDelayArmCode (capEdge { s with edgeMask := false, edgePend := false }) ∨
    t = goto phDelayArmCode { s with edgeMask := false } := by
  change execPhUnmask s = _ at h
  unfold execPhUnmask at h
  split at h <;> cases h
  · exact .inl rfl
  · exact .inr rfl

/-- Settles O23: the frame of every operation but `PH_UNMASK`, and the two branches of `PH_UNMASK`. -/
theorem foregroundStaysOnItsSide : Obligations.ForegroundStaysOnItsSide := by
  refine ⟨fun i s t hi hu h => leavesEventSide_foreground hi hu h, fun s t h => ?_⟩
  rcases exec_phUnmask_cases h with rfl | rfl
  · rcases capEdge_cases { s with edgeMask := false, edgePend := false } with ⟨-, h⟩ | ⟨-, -, h⟩ | ⟨-, -, h⟩ <;>
      simp [h, SameOutside]
  · simp [SameOutside]

end Sys2Proof.Machine
end

section
/-! SUPPORT. A step and `HZ` (10_state.md R25): at every point of a step an Armed session has counted nothing, or it is the session the step
began in, with at most this step's tick added. -/

namespace Sys2Proof.Machine

/-- An elapsed count of the session of `s`: as it stands, or after one more tick. -/
def SessionCount (s : State) (n : BitVec 32) : Prop := n = s.cnt - s.startTicks ∨ n = s.cnt + 1#32 - s.startTicks

/-- In a step from `s`, at `u`: an Armed session has elapsed count 0 or continues that of `s`, and a changed `HZ` is the reading of a nonzero
count of the session of `s`. -/
def ReadingFrom (s u : State) : Prop :=
  u.params = s.params ∧
  (u.armed = true → elapsed u.cnt u.startTicks = 0#32 ∨ s.armed = true ∧ SessionCount s (elapsed u.cnt u.startTicks)) ∧
  (u.hz ≠ s.hz → s.armed = true ∧ ∃ n, n ≠ 0#32 ∧ SessionCount s n ∧ u.hz = frequencyReading s.params.fTick n)

theorem ReadingFrom.refl (s : State) : ReadingFrom s s :=
  ⟨rfl, fun ha => .inr ⟨ha, .inl rfl⟩, fun h => absurd rfl h⟩

/-- What leaves the parameters and the capture registers leaves `ReadingFrom`. -/
theorem ReadingFrom.of_same {s u v : State} (h : ReadingFrom s u) (hp : v.params = u.params) (ha : v.armed = u.armed)
    (hc : v.cnt = u.cnt) (hst : v.startTicks = u.startTicks) (hz : v.hz = u.hz) : ReadingFrom s v := by
  simpa only [ReadingFrom, hp, ha, hc, hst, hz] using h

/-- The arming edge starts at 0; the closing edge writes the reading of a nonzero count, which is one of the session of `s`. -/
theorem ReadingFrom.capEdge {s u : State} (h : ReadingFrom s u) : ReadingFrom s (capEdge u) := by
  obtain ⟨hp, hcount, hread⟩ := h
  rcases capEdge_cases u with ⟨-, h⟩ | ⟨-, -, h⟩ | ⟨ha, hne, h⟩ <;> rw [h]
  · exact ⟨hp, fun _ => .inl (BitVec.sub_self 0#32), hread⟩
  · exact ⟨hp, nofun, hread⟩
  · obtain ⟨hs, hn⟩ := (hcount ha).resolve_left hne
    exact ⟨hp, nofun, fun _ => ⟨hs, _, hne, hn, by rw [hp]⟩⟩

/-- The one tick of a step is performed first (30_encoding.md R71). -/
theorem decodeEvents_tick_first (w : StimWord) :
    ∃ is, decodeEvents w = (if w.tick then [.tick] else []) ++ is ∧ ∀ i ∈ is, i = .fedge ∨ i = .mstick ∨ i = .bedge := by
  refine ⟨_, by simp only [decodeEvents, List.append_assoc]; rfl, fun i hi => ?_⟩
  simp only [List.mem_append] at hi
  rcases hi with hi | hi | hi <;> split at hi <;> simp at hi <;> simp [hi]

/-- The tick of a step adds one to the session's count, or ends the session. -/
theorem readingFrom_tick {s t : State} (h : exec .tick s = .next t) : ReadingFrom s t := by
  rcases exec_event_cases (.inl rfl) h with ⟨-, ht⟩ | ⟨hi, -⟩ | ⟨hi, -⟩ | ⟨hi, -⟩
  · rcases ht with ⟨-, rfl⟩ | ⟨-, -, rfl⟩ | ⟨-, -, rfl⟩
    · exact .refl _
    · exact ⟨rfl, fun ha => .inr ⟨ha, .inr rfl⟩, fun h => absurd rfl h⟩
    · exact ⟨rfl, nofun, fun h => absurd rfl h⟩
  all_goals cases hi

theorem ReadingFrom.event {i : Instr} {s u v : State} (hi : i = .fedge ∨ i = .mstick ∨ i = .bedge) (hu : ReadingFrom s u)
    (h : exec i u = .next v) : ReadingFrom s v := by
  rcases exec_event_cases (.inr hi) h with ⟨rfl, -⟩ | ⟨-, hv⟩ | ⟨-, rfl⟩ | ⟨-, hv⟩
  · simp at hi
  · rcases hv with ⟨-, -, rfl⟩ | ⟨-, -, rfl⟩ | ⟨-, rfl⟩
    · exact hu.of_same rfl rfl rfl rfl rfl
    · exact hu
    · exact hu.capEdge
  · exact hu.of_same rfl rfl rfl rfl rfl
  · rcases hv with ⟨-, rfl⟩ | ⟨-, rfl⟩
    · exact hu.of_same rfl rfl rfl rfl rfl
    · exact hu

theorem readingFrom_eventPart {w : StimWord} {s t : State} (h : eventPart w s = .next t) : ReadingFrom s t := by
  obtain ⟨is, hw, his⟩ := decodeEvents_tick_first w
  rw [eventPart, hw, execAll_append] at h
  obtain ⟨u, htick, hrest⟩ := andThen_eq_next h
  have hu : ReadingFrom s u := by
    split at htick
    · obtain ⟨v, hv, hnil⟩ := andThen_eq_next htick
      cases hnil
      exact readingFrom_tick hv
    · cases htick
      exact .refl s
  exact execAll_keeps (P := ReadingFrom s) (fun i hi _ _ hP => hP.event (his i hi)) hu hrest

/-- What a foreground step selects is an operation of the foreground (30_encoding.md R73). -/
theorem decodeForeground_context {code : PhaseCode} {queued : Bool} {w : StimWord} {i : Instr}
    (h : decodeForeground code queued w = .ok i) : Instr.context i = .foreground := by
  obtain ⟨-, ⟨-, rfl⟩ | ⟨-, -, rfl⟩ | ⟨-, -, h⟩⟩ := decodeForeground_cases h
  · rfl
  · rfl
  · rcases decodePhase_cases h with ⟨-, rfl⟩ | ⟨-, rfl⟩ | ⟨-, rfl⟩ | ⟨-, rfl⟩ | ⟨-, rfl⟩ | ⟨-, rfl⟩ | ⟨-, rfl⟩ | ⟨-, rfl⟩ | ⟨-, rfl⟩ |
      ⟨-, rfl⟩ | ⟨-, rfl⟩ | ⟨-, rfl⟩ | ⟨-, rfl⟩ <;> rfl

/-- Of the foreground only `PH_UNMASK` reaches the capture registers, by the pending edge. -/
theorem ReadingFrom.foreground {i : Instr} {s u v : State} (hi : Instr.context i = .foreground) (hu : ReadingFrom s u)
    (h : exec i u = .next v) : ReadingFrom s v := by
  by_cases hun : i = .phUnmask
  · subst hun
    rcases exec_phUnmask_cases h with rfl | rfl
    · have hmasked : ReadingFrom s { u with edgeMask := false, edgePend := false } := hu.of_same rfl rfl rfl rfl rfl
      exact hmasked.capEdge.of_same rfl rfl rfl rfl rfl
    · exact hu.of_same rfl rfl rfl rfl rfl
  · obtain ⟨ha, hc, -, hst, hz, -, -, -, -, -, -, -, -, hp⟩ := leavesEventSide_foreground hi hun h
    exact hu.of_same hp ha hc hst hz

theorem readingFrom_globalStep {w : StimWord} {s t : State} (h : globalStep w s = .next t) : ReadingFrom s t := by
  obtain ⟨e, f, he, hf, rfl⟩ := globalStep_next h
  have hPf : ReadingFrom s f := by
    rcases foregroundPart_cases hf with ⟨-, rfl⟩ | ⟨-, i, hi, hx⟩
    · exact readingFrom_eventPart he
    · exact (readingFrom_eventPart he).foreground (decodeForeground_context hi) hx
  obtain ⟨d, wire, hdev⟩ := devicePart_frame f
  rw [hdev]
  exact hPf.of_same rfl rfl rfl rfl rfl

/-- Settles O16: the last clause of `ReadingFrom`, which a whole step keeps. -/
theorem readingChangesOnlyOnClosingEdge : Obligations.ReadingChangesOnlyOnClosingEdge := by
  intro s t hw h hne
  obtain ⟨w, hstep⟩ := step_takesStimulus hw
  obtain ⟨ins, n, hin⟩ := afterInput_frame s
  rw [hstep, hin] at h
  obtain ⟨-, -, hread⟩ := readingFrom_globalStep h
  exact hread hne

end Sys2Proof.Machine
end

section
/-! SUPPORT. One frame at the display (20_memory.md R60 to R63): a command byte as pattern and operand, each kind of frame past the init list,
and all that a consumed frame can have done. -/

namespace Sys2Proof.Machine

/-! ### A command byte is one of the patterns of R61, followed by its operand -/

theorem pageSel_byte (p : Page) : 0xB0#8 ||| p.setWidth 8 = 0b10110#5 ++ p := by revert p; decide

theorem colLo_byte (n : BitVec 4) : 0x00#8 ||| n.setWidth 8 = 0b0000#4 ++ n := by revert n; decide

theorem colHi_byte (n : BitVec 4) : 0x10#8 ||| n.setWidth 8 = 0b0001#4 ++ n := by revert n; decide

theorem extractLsb'_append_page (b : Byte) : b.extractLsb' 3 5 ++ b.extractLsb' 0 3 = b :=
  (BitVec.extractLsb'_append_extractLsb'_eq_extractLsb' rfl).trans BitVec.extractLsb'_eq_self

theorem extractLsb'_append_nibble (b : Byte) : b.extractLsb' 4 4 ++ b.extractLsb' 0 4 = b :=
  (BitVec.extractLsb'_append_extractLsb'_eq_extractLsb' rfl).trans BitVec.extractLsb'_eq_self

theorem withLowNibble_append (col : Byte) (n : BitVec 4) : withLowNibble col (0b0000#4 ++ n) = col.extractLsb' 4 4 ++ n := by
  refine BitVec.eq_of_getLsbD_eq fun i hi => ?_
  rw [withLowNibble, BitVec.getLsbD_or, BitVec.getLsbD_and, BitVec.getLsbD_and, BitVec.getLsbD_append, BitVec.getLsbD_append]
  interval_cases i <;> simp

theorem withHighNibble_append (col : Byte) (n : BitVec 4) : withHighNibble col (0b0001#4 ++ n) = n ++ col.extractLsb' 0 4 := by
  refine BitVec.eq_of_getLsbD_eq fun i hi => ?_
  rw [withHighNibble, BitVec.getLsbD_or, BitVec.getLsbD_shiftLeft, BitVec.getLsbD_and, BitVec.getLsbD_and, BitVec.getLsbD_append,
    BitVec.getLsbD_append]
  interval_cases i <;> simp

/-! ### One frame past the init list -/

theorem Device.command_pageSel {d : Device} (h : initLen ≤ d.initCount) (p : Page) :
    d.command (0b10110#5 ++ p) = .ok { d with page := p } := by
  have hpat : (0b10110#5 ++ p).extractLsb' 3 5 = 0b10110#5 ∧ (0b10110#5 ++ p).extractLsb' 0 3 = p := by revert p; decide
  simp only [Device.command, Nat.not_lt.mpr h, hpat, if_true, if_false]

theorem Device.command_colLo {d : Device} (h : initLen ≤ d.initCount) (n : BitVec 4) :
    d.command (0b0000#4 ++ n) = .ok { d with col := d.col.extractLsb' 4 4 ++ n } := by
  have hpat : (0b0000#4 ++ n).extractLsb' 3 5 ≠ 0b10110#5 ∧ (0b0000#4 ++ n).extractLsb' 4 4 = 0b0000#4 := by revert n; decide
  simp only [Device.command, Nat.not_lt.mpr h, hpat, withLowNibble_append, if_true, if_false]

theorem Device.command_colHi {d : Device} (h : initLen ≤ d.initCount) (n : BitVec 4) :
    d.command (0b0001#4 ++ n) = .ok { d with col := n ++ d.col.extractLsb' 0 4 } := by
  have hpat : (0b0001#4 ++ n).extractLsb' 3 5 ≠ 0b10110#5 ∧ (0b0001#4 ++ n).extractLsb' 4 4 = 0b0001#4 := by revert n; decide
  simp only [Device.command, Nat.not_lt.mpr h, hpat, withHighNibble_append, if_true, if_false]
  rfl

theorem Device.command_unknown {d : Device} {b : Byte} (h : initLen ≤ d.initCount) (h₁ : b.extractLsb' 3 5 ≠ 0b10110#5)
    (h₂ : b.extractLsb' 4 4 ≠ 0b0000#4) (h₃ : b.extractLsb' 4 4 ≠ 0b0001#4) : d.command b = .error (.unknownCommand b) := by
  simp only [Device.command, Nat.not_lt.mpr h, h₁, h₂, h₃, if_false]

theorem logicalColumn_inside {origin : BitVec 7} {col : Byte} (h : origin.toNat ≤ col.toNat) (h' : col.toNat - origin.toNat ≤ 127) :
    logicalColumn origin col = some (BitVec.ofNat 7 (col.toNat - origin.toNat)) := if_pos ⟨h, h'⟩

theorem logicalColumn_outside {origin : BitVec 7} {col : Byte} (h : col.toNat < origin.toNat ∨ 127 < col.toNat - origin.toNat) :
    logicalColumn origin col = none := if_neg (by omega)

/-- The device with the byte `v` written at column `x` of the selected page, the pointer one column on (20_memory.md R62). -/
def Device.put (x : Column) (v : Byte) (d : Device) : Device :=
  { d with fb := Memory.write d.fb (fbAddress d.page x) v, col := d.col + 1#8 }

theorem Device.data_inside {d : Device} {origin : BitVec 7} {x : Column} (h : initLen ≤ d.initCount)
    (hx : logicalColumn origin d.col = some x) (v : Byte) : d.data origin v = .ok (d.put x v) := by
  simp only [Device.data, Nat.not_lt.mpr h, hx, if_false, Device.put]

theorem Device.data_outside {d : Device} {origin : BitVec 7} (h : initLen ≤ d.initCount) (hx : logicalColumn origin d.col = none) (v : Byte) :
    d.data origin v = .error .dataOutsideColumns := by
  simp only [Device.data, Nat.not_lt.mpr h, hx, if_false]

/-! ### The frame operations -/

/-- Settles O33: every command byte only counts while the init list lasts, and a data frame is refused. -/
theorem initFramesOnlyCount : Obligations.InitFramesOnlyCount := by
  intro s h
  have hcount (b : Byte) : withDevice s (s.dev.command b) = .next { s with dev := { s.dev with initCount := s.dev.initCount + 1 } } := by
    rw [Device.command_init b h]; rfl
  have hdata (b : Byte) : s.dev.data s.params.colOrigin b = .error .dataBeforeInit := if_pos h
  refine ⟨hcount, fun p => hcount _, fun n => hcount _, fun n => hcount _, fun b => ?_⟩
  change withDevice s (s.dev.data s.params.colOrigin b) = _
  rw [hdata]; rfl

/-- Settles O34: the device reads a byte as pattern and operand, and the byte of a cursor operation is its pattern followed by its operand. -/
theorem commandsDecodeByValue : Obligations.CommandsDecodeByValue := by
  intro s h
  refine ⟨fun p => ?_, fun n => ?_, fun n => ?_, fun b hb => ?_, fun b hb => ?_, fun b hb => ?_, fun b h₁ h₂ h₃ => ?_⟩
  · change withDevice s _ = _
    rw [pageSel_byte, Device.command_pageSel h]; rfl
  · change withDevice s _ = _
    rw [colLo_byte, Device.command_colLo h]; rfl
  · change withDevice s _ = _
    rw [colHi_byte, Device.command_colHi h]; rfl
  · change withDevice s _ = withDevice s _
    rw [pageSel_byte, ← hb, extractLsb'_append_page]
  · change withDevice s _ = withDevice s _
    rw [colLo_byte, ← hb, extractLsb'_append_nibble]
  · change withDevice s _ = withDevice s _
    rw [colHi_byte, ← hb, extractLsb'_append_nibble]
  · change withDevice s _ = _
    rw [Device.command_unknown h h₁ h₂ h₃]; rfl

/-- Settles O35: `Device.put` at the logical column of the pointer, or the refusal outside the 128 columns. -/
theorem dataWritesOneByteAndAdvances : Obligations.DataWritesOneByteAndAdvances := by
  intro s v h
  refine ⟨fun hle hlt => ?_, fun hout => ?_⟩
  · refine ⟨{ s with dev := s.dev.put (BitVec.ofNat 7 (s.dev.col.toNat - s.params.colOrigin.toNat)) v }, ?_, rfl, rfl, rfl, ?_, ?_, ?_⟩
    · change withDevice s _ = _
      rw [Device.data_inside h (logicalColumn_inside hle hlt)]; rfl
    · exact BitVec.eq_of_toNat_eq (by simp [Device.put])
    · simp [Device.put, Device.pixelColumn_write]
    · intro q y hqy
      refine (Device.pixelColumn_write ..).trans (if_neg ?_)
      rintro ⟨rfl, rfl⟩
      exact hqy.elim (fun hq => hq rfl) fun hy => hy (Nat.mod_eq_of_lt (Nat.lt_succ_of_le hlt))
  · change withDevice s _ = _
    rw [Device.data_outside h (logicalColumn_outside hout)]; rfl

end Sys2Proof.Machine
end

section
/-! SUPPORT. The driver's frames at the display past the init list (20_memory.md R61 to R63): a cursor position, a row of data frames behind
it, and from these the glyphs, the text and the clear, none of which the device refuses. -/

namespace Sys2Proof.Machine

theorem pageCommand_eq (page : Byte) : pageCommand page = 0b10110#5 ++ page.extractLsb' 0 3 := by
  refine BitVec.eq_of_getLsbD_eq fun i hi => ?_
  rw [pageCommand, BitVec.getLsbD_or, BitVec.getLsbD_and, BitVec.getLsbD_append]
  interval_cases i <;> simp

theorem colLoCommand_eq (t : Byte) : colLoCommand t = 0b0000#4 ++ t.extractLsb' 0 4 := by
  refine BitVec.eq_of_getLsbD_eq fun i hi => ?_
  rw [colLoCommand, BitVec.getLsbD_or, BitVec.getLsbD_and, BitVec.getLsbD_append]
  interval_cases i <;> simp

theorem colHiCommand_eq (t : Byte) : colHiCommand t = 0b0001#4 ++ t.extractLsb' 4 4 := by
  refine BitVec.eq_of_getLsbD_eq fun i hi => ?_
  rw [colHiCommand, BitVec.getLsbD_or, BitVec.getLsbD_and, BitVec.getLsbD_append]
  interval_cases i <;> simp

theorem deviceColumn_toNat (p : Params) {x : Byte} (hx : x.toNat ≤ 128) : (deviceColumn p x).toNat = x.toNat + p.colOrigin.toNat := by
  simp only [deviceColumn, BitVec.toNat_add, BitVec.toNat_setWidth]
  omega

/-! ### Feeding one frame after another -/

theorem Device.feed_cons {origin : BitVec 7} {f : Frame} {d d' : Device} (h : d.consume origin f = .ok d') (fs : List Frame) :
    d.feed origin (f :: fs) = d'.feed origin fs := by
  simp only [Device.feed, h]

theorem Device.feed_append_ok {origin : BitVec 7} {fs : List Frame} {d d' : Device} (h : d.feed origin fs = .ok d') (gs : List Frame) :
    d.feed origin (fs ++ gs) = d'.feed origin gs := by
  simp only [Device.feed_append, h]

theorem Device.consume_cmdFrame (origin : BitVec 7) (b : Byte) (d : Device) : d.consume origin (cmdFrame b) = d.command b := by
  simp [Device.consume]

theorem Device.consume_dataFrame (origin : BitVec 7) (v : Byte) (d : Device) : d.consume origin (dataFrame v) = d.data origin v := by
  simp [Device.consume]

/-- The three frames of a cursor position put the pointer there (30_encoding.md R80). -/
theorem Device.feed_cursorFrames {d : Device} (h : initLen ≤ d.initCount) (origin : BitVec 7) (p : Params) (page x : Byte) :
    d.feed origin (cursorFrames p page x) = .ok { d with page := page.extractLsb' 0 3, col := deviceColumn p x } := by
  simp only [cursorFrames, setPageFrames, setColFrames, pageCommand_eq, colLoCommand_eq, colHiCommand_eq, List.cons_append, List.nil_append]
  generalize deviceColumn p x = t
  have hcol (col : Byte) : t.extractLsb' 4 4 ++ (col.extractLsb' 4 4 ++ t.extractLsb' 0 4).extractLsb' 0 4 = t := by
    rw [BitVec.extractLsb'_append_eq_right]
    exact extractLsb'_append_nibble t
  rw [Device.feed_cons ((Device.consume_cmdFrame ..).trans (Device.command_pageSel h _)),
    Device.feed_cons ((Device.consume_cmdFrame ..).trans (Device.command_colLo (by exact h) _)),
    Device.feed_cons ((Device.consume_cmdFrame ..).trans (Device.command_colHi (by exact h) _)), hcol, Device.feed]

/-- The bytes of a list written one column after another, the first at column `x`. -/
def Device.putRow : Nat → List Byte → Device → Device
  | _, [], d => d
  | x, v :: vs, d => Device.putRow (x + 1) vs (d.put (BitVec.ofNat 7 x) v)

theorem Device.putRow_initCount (x : Nat) (vs : List Byte) (d : Device) : (d.putRow x vs).initCount = d.initCount := by
  induction vs generalizing x d with
  | nil => rfl
  | cons v vs ih => exact ih ..

/-- Data frames that stay inside the 128 columns are written in a row. -/
theorem Device.feed_row {origin : BitVec 7} {d : Device} {x : Nat} {vs : List Byte} (h : initLen ≤ d.initCount)
    (hcol : d.col.toNat = x + origin.toNat) (hx : x + vs.length ≤ dispCols) :
    d.feed origin (vs.map dataFrame) = .ok (d.putRow x vs) := by
  induction vs generalizing x d with
  | nil => rfl
  | cons v vs ih =>
    have := origin.isLt
    simp only [List.length_cons, dispCols] at hx
    have hlog : logicalColumn origin d.col = some (BitVec.ofNat 7 x) := by
      rw [logicalColumn_inside (by omega) (by omega), hcol, Nat.add_sub_cancel]
    rw [List.map_cons, Device.feed_cons ((Device.consume_dataFrame ..).trans (Device.data_inside h hlog v))]
    refine ih h ?_ (by simp only [dispCols]; omega)
    simp only [Device.put, BitVec.toNat_add, BitVec.toNat_ofNat]
    omega

/-! ### Frames the device takes wherever it stands past the init list -/

/-- A device past the init list takes all these frames, none of them as an init frame. -/
def TakenPastInit (origin : BitVec 7) (fs : List Frame) : Prop :=
  ∀ d : Device, initLen ≤ d.initCount → ∃ d', d.feed origin fs = .ok d' ∧ d'.initCount = d.initCount

theorem TakenPastInit.nil (origin : BitVec 7) : TakenPastInit origin [] := fun d _ => ⟨d, rfl, rfl⟩

theorem TakenPastInit.append {origin : BitVec 7} {fs gs : List Frame} (hf : TakenPastInit origin fs) (hg : TakenPastInit origin gs) :
    TakenPastInit origin (fs ++ gs) := by
  intro d hd
  obtain ⟨d₁, h₁, hc₁⟩ := hf d hd
  obtain ⟨d₂, h₂, hc₂⟩ := hg d₁ (hd.trans_eq hc₁.symm)
  exact ⟨d₂, (Device.feed_append_ok h₁ gs).trans h₂, hc₂.trans hc₁⟩

theorem TakenPastInit.flatMap {α : Type} {origin : BitVec 7} {g : α → List Frame} (h : ∀ a, TakenPastInit origin (g a)) (as : List α) :
    TakenPastInit origin (as.flatMap g) := by
  induction as with
  | nil => exact .nil origin
  | cons a as ih => exact (h a).append ih

/-- A cursor position and bytes that stay inside the 128 columns from there on. -/
theorem takenPastInit_row (p : Params) (page : Byte) {x : Byte} {vs : List Byte} (hx : x.toNat + vs.length ≤ dispCols) :
    TakenPastInit p.colOrigin (cursorFrames p page x ++ vs.map dataFrame) := by
  intro d hd
  have hcol := deviceColumn_toNat p ((Nat.le_add_right ..).trans hx)
  refine ⟨_, (Device.feed_append_ok (Device.feed_cursorFrames hd ..) _).trans (Device.feed_row (by exact hd) hcol hx), ?_⟩
  exact Device.putRow_initCount ..

theorem takenPastInit_glyph (p : Params) (page : Byte) {x : Byte} (hx : x.toNat ≤ lastStartCol) (c : CharCode) :
    TakenPastInit p.colOrigin (glyphFrames p page x c) := by
  have hrow : (List.range glyphW).map (fun i => dataFrame (glyphColumn p c i)) =
      ((List.range glyphW).map (glyphColumn p c)).map dataFrame := by simp
  rw [glyphFrames, hrow]
  exact takenPastInit_row p page (by simpa using hx)

theorem takenPastInit_text (p : Params) (page : Byte) (col : Nat) (cs : List CharCode) :
    TakenPastInit p.colOrigin (textFrames p page col cs) := by
  induction cs generalizing col with
  | nil => rw [textFrames_nil]; exact .nil _
  | cons c cs ih =>
    by_cases hcol : col ≤ lastStartCol
    · rw [textFrames_drawn p page hcol]
      refine (takenPastInit_glyph p page ?_ c).append (ih _)
      exact (BitVec.toNat_ofNat ..).trans_le ((Nat.mod_le ..).trans hcol)
    · rw [textFrames_clipped p page (Nat.lt_of_not_le hcol)]
      exact .nil _

theorem takenPastInit_clear (p : Params) : TakenPastInit p.colOrigin (clearFrames p) := by
  refine .flatMap (fun page => ?_) _
  rw [← List.map_replicate]
  exact takenPastInit_row p _ (by simp)

end Sys2Proof.Machine
end

section
/-! SUPPORT. Display memory over a step (20_memory.md R52, R59): only the display's turn writes the device, and a consumed frame keeps the
canonical form. -/

namespace Sys2Proof.Machine

/-- Everything a consumed frame can have done: counted, moved the pointer, or written a byte and moved one column on. -/
theorem Device.consume_cases {d d' : Device} {origin : BitVec 7} {f : Frame} (h : d.consume origin f = .ok d') :
    (d.initCount < initLen ∧ d' = { d with initCount := d.initCount + 1 }) ∨
    (initLen ≤ d.initCount ∧ ∃ page col, d' = { d with page := page, col := col }) ∨
    (initLen ≤ d.initCount ∧ ∃ x v, d' = d.put x v) := by
  unfold Device.consume at h
  split at h
  · obtain ⟨hinit, x, -, rfl⟩ := Device.data_ok h
    exact .inr (.inr ⟨hinit, x, _, rfl⟩)
  · by_cases hinit : d.initCount < initLen
    · rw [Device.command_init _ hinit] at h
      exact .inl ⟨hinit, (Except.ok.inj h).symm⟩
    · simp only [Device.command, if_neg hinit] at h
      refine .inr (.inl ⟨Nat.le_of_not_lt hinit, ?_⟩)
      split at h
      · exact ⟨_, d.col, (Except.ok.inj h).symm⟩
      split at h
      · exact ⟨d.page, _, (Except.ok.inj h).symm⟩
      split at h
      · exact ⟨d.page, _, (Except.ok.inj h).symm⟩
      · cases h

theorem context_of_event {i : Instr} (hi : i = .tick ∨ i = .fedge ∨ i = .mstick ∨ i = .bedge) : Instr.context i = .event := by
  rcases hi with rfl | rfl | rfl | rfl <;> rfl

/-- `MemoryInv` speaks of the device alone. -/
theorem MemoryInv.of_dev {s t : State} (hs : MemoryInv s) (h : t.dev = s.dev) : MemoryInv t := by
  simpa only [MemoryInv, h] using hs

theorem memoryInv_devicePart {s : State} (hs : MemoryInv s) : MemoryInv (devicePart s) := by
  rcases devicePart_cases s with h | ⟨f, fs, d, -, hd, h⟩
  · rwa [h]
  obtain ⟨hfb, hcount⟩ := hs
  rw [h]
  rcases Device.consume_cases hd with ⟨hinit, rfl⟩ | ⟨-, page, col, rfl⟩ | ⟨-, x, v, rfl⟩
  · exact ⟨hfb, hinit⟩
  · exact ⟨hfb, hcount⟩
  · exact ⟨Memory.write_wf v hfb (fbAddress_lt ..), hcount⟩

theorem exec_foreground_dev {i : Instr} {s t : State} (hi : Instr.context i = .foreground) (h : exec i s = .next t) : t.dev = s.dev := by
  by_cases hun : i = .phUnmask
  · subst hun
    rcases exec_phUnmask_cases h with rfl | rfl
    · obtain ⟨-, hdev, -⟩ := leavesOtherSide_capEdge { s with edgeMask := false, edgePend := false }
      exact hdev.symm
    · rfl
  · obtain ⟨-, -, -, -, -, -, -, -, -, -, hdev, -⟩ := leavesEventSide_foreground hi hun h
    exact hdev

/-- Settles O56: events and the foreground leave the device, a reset empties its memory, and the display's turn keeps the form. -/
theorem displayMemoryStaysCanonical : Obligations.DisplayMemoryStaysCanonical := by
  intro s t
  refine step_keeps (P := MemoryInv) (fun u hu => ?_) (fun u _ => ⟨Memory.wf_nil, Nat.zero_le _⟩) (fun i u v hi hu hx => ?_) (fun w i u v hi hu hx => ?_)
    fun u => memoryInv_devicePart
  · obtain ⟨ins, n, hin⟩ := afterInput_frame u
    exact hu.of_dev (by rw [hin])
  · obtain ⟨-, hdev, -⟩ := leavesOtherSide_event (context_of_event hi) hx
    exact hu.of_dev hdev.symm
  · exact hu.of_dev (exec_foreground_dev (decodeForeground_context hi) hx)

end Sys2Proof.Machine
end

section
/-! SUPPORT. The display over a step (20_memory.md R58, R63): an operation other than a send leaves the display and what was sent to it, and a
frame sent is taken in the same step. -/

namespace Sys2Proof.Machine

/-- From `s` to `t` the wire, the device, the frames sent and the parameters stay. -/
def LeavesDisplay (s t : State) : Prop := t.wire = s.wire ∧ t.dev = s.dev ∧ t.busTrace = s.busTrace ∧ t.params = s.params

theorem LeavesOtherSide.leavesDisplay {s t : State} (h : LeavesOtherSide s t) : LeavesDisplay s t ∧ t.phase = s.phase ∧ t.txq = s.txq := by
  obtain ⟨⟨hphase, htxq, -, -, -, -, -, -, -, -, hbus, -, -⟩, hdev, hwire, -, -, hparams⟩ := h
  exact ⟨⟨hwire.symm, hdev.symm, hbus.symm, hparams.symm⟩, hphase.symm, htxq.symm⟩

theorem leavesDisplay_pollFailed (s : State) :
    LeavesDisplay s (pollFailed s) ∧ (pollFailed s).txq = s.txq ∧
      ((pollFailed s).phase = s.phase ∨ (pollFailed s).phase = phStalledCode) := by
  rcases pollFailed_cases s with ⟨-, h⟩ | ⟨-, h⟩ <;> simp [h, LeavesDisplay]

/-- What `DisplayInv` says of a queue at a phase and of the device that will take it. -/
def QueueFits (origin : BitVec 7) (phase : PhaseCode) (txq : List Frame) (d : Device) : Prop :=
  (phase = phInitCode → txq = [] ∧ d.initCount = 0) ∧
  (phase = phClearCode → (∀ f ∈ txq, f.isData = false) ∧ d.initCount + txq.length = initLen) ∧
  (phase ≠ phInitCode → phase ≠ phClearCode → phase ≠ phStalledCode →
    ∃ d', d.feed origin txq = .ok d' ∧ d'.initCount = initLen)

theorem displayInv_iff (s : State) :
    DisplayInv s ↔ s.wire = [] ∧ Device.feed s.params.colOrigin s.busTrace (Device.powerOn s.dev.powerOns) = .ok s.dev ∧
      QueueFits s.params.colOrigin s.phase s.txq s.dev := Iff.rfl

/-- What leaves the display keeps the invariant if the new queue fits. -/
theorem DisplayInv.of_queueFits {s t : State} (hs : DisplayInv s) (h : LeavesDisplay s t)
    (hfits : QueueFits s.params.colOrigin t.phase t.txq s.dev) : DisplayInv t := by
  obtain ⟨hwire, hdev, hbus, hparams⟩ := h
  obtain ⟨hempty, hfed, -⟩ := (displayInv_iff s).mp hs
  rw [displayInv_iff, hwire, hdev, hbus, hparams]
  exact ⟨hempty, hfed, hfits⟩

theorem DisplayInv.of_leavesDisplay {s t : State} (hs : DisplayInv s) (h : LeavesDisplay s t) (hphase : t.phase = s.phase)
    (htxq : t.txq = s.txq) : DisplayInv t := by
  obtain ⟨-, -, hfits⟩ := (displayInv_iff s).mp hs
  exact hs.of_queueFits h (by rwa [hphase, htxq])

/-- A sequencer that has stopped sends nothing more. -/
theorem queueFits_stalled (origin : BitVec 7) (txq : List Frame) (d : Device) : QueueFits origin phStalledCode txq d :=
  ⟨nofun, nofun, fun _ _ h => absurd rfl h⟩

/-- Past the first two phases any frames fit that a device past the init list takes. -/
theorem queueFits_of_taken {origin : BitVec 7} {phase : PhaseCode} {txq : List Frame} {d : Device} (h0 : phase ≠ phInitCode)
    (h1 : phase ≠ phClearCode) (htxq : TakenPastInit origin txq) (hd : d.initCount = initLen) : QueueFits origin phase txq d := by
  refine ⟨fun h => absurd h h0, fun h => absurd h h1, fun _ _ _ => ?_⟩
  obtain ⟨d', hd', hcount⟩ := htxq d hd.ge
  exact ⟨d', hd', hcount.trans hd⟩

theorem queueFits_initFrames (p : Params) {origin : BitVec 7} {d : Device} (hd : d.initCount = 0) :
    QueueFits origin phClearCode (initFrames p) d := by
  refine ⟨nofun, fun _ => ⟨?_, by simp [initFrames, hd]⟩, fun _ h => absurd rfl h⟩
  simp only [initFrames, List.mem_map]
  rintro _ ⟨i, -, rfl⟩
  exact cmdFrame_isData _

/-- With nothing queued after `PH_INIT` the device has its 29 init frames. -/
theorem QueueFits.initCount_of_nil {origin : BitVec 7} {phase : PhaseCode} {d : Device} (h : QueueFits origin phase [] d)
    (h0 : phase ≠ phInitCode) (h12 : phase ≠ phStalledCode) : d.initCount = initLen := by
  obtain ⟨-, hclear, hrun⟩ := h
  by_cases h1 : phase = phClearCode
  · exact (hclear h1).2
  · obtain ⟨d', hd', hcount⟩ := hrun h0 h1 h12
    cases hd'
    exact hcount

/-- The device takes the frame at the head of the queue: as one of the 29 it only counts, or as a frame of a list it takes whole. -/
theorem QueueFits.consume_head {origin : BitVec 7} {phase : PhaseCode} {f : Frame} {rest : List Frame} {d : Device}
    (h : QueueFits origin phase (f :: rest) d) (h12 : phase ≠ phStalledCode) :
    ∃ d', d.consume origin f = .ok d' ∧ QueueFits origin phase rest d' := by
  obtain ⟨hinit, hclear, hrun⟩ := h
  have h0 : phase ≠ phInitCode := fun h => nomatch (hinit h).1
  by_cases h1 : phase = phClearCode
  · obtain ⟨hcmd, hlen⟩ := hclear h1
    rw [List.length_cons] at hlen
    have hcount : d.initCount < initLen := by omega
    refine ⟨{ d with initCount := d.initCount + 1 }, ?_, fun h => absurd h h0, fun _ => ⟨?_, ?_⟩, fun _ h => absurd h1 h⟩
    · rw [Device.consume, hcmd f List.mem_cons_self]
      exact Device.command_init _ hcount
    · exact fun g hg => hcmd g (List.mem_cons_of_mem _ hg)
    · rw [← hlen]
      exact Nat.succ_add_eq_add_succ ..
  · obtain ⟨d'', hd'', hcount⟩ := hrun h0 h1 h12
    cases hd : d.consume origin f with
    | ok d' =>
      rw [Device.feed_cons hd] at hd''
      exact ⟨d', rfl, fun h => absurd h h0, fun h => absurd h h1, fun _ _ _ => ⟨d'', hd'', hcount⟩⟩
    | error r => simp [Device.feed, hd] at hd''

/-! ### The parts of a step -/

theorem displayInv_event {i : Instr} {s t : State} (hi : Instr.context i = .event) (hs : DisplayInv s) (h : exec i s = .next t) :
    DisplayInv t := by
  obtain ⟨hleaves, hphase, htxq⟩ := (leavesOtherSide_event hi h).leavesDisplay
  exact hs.of_leavesDisplay hleaves hphase htxq

theorem displayInv_pollFailed {s : State} (hs : DisplayInv s) : DisplayInv (pollFailed s) := by
  obtain ⟨hleaves, htxq, hphase | hphase⟩ := leavesDisplay_pollFailed s
  · exact hs.of_leavesDisplay hleaves hphase htxq
  · exact hs.of_queueFits hleaves (hphase ▸ queueFits_stalled ..)

/-- A frame sent is taken by the display in the same step (assumption log 7). -/
theorem displayInv_sent {s : State} {f : Frame} {rest : List Frame} (hs : DisplayInv s) (hq : s.txq = f :: rest)
    (h12 : s.phase ≠ phStalledCode) :
    DisplayInv (devicePart { s with
      busTrace := s.busTrace ++ [f], wire := s.wire ++ [f], txq := rest, waitCnt := 0, csN := true, dc := true }) := by
  obtain ⟨hempty, hfed, hfits⟩ := (displayInv_iff s).mp hs
  obtain ⟨d, hd, hrest⟩ := (hq ▸ hfits).consume_head h12
  rw [devicePart_cons (f := f) (fs := []) (by simp [hempty]), hd, displayInv_iff]
  refine ⟨rfl, ?_, hrest⟩
  simp only [Device.consume_powerOns hd]
  exact (Device.feed_append_ok hfed _).trans (Device.feed_cons hd [])

/-- With nothing queued, after `PH_INIT`, a phase that leaves the display may queue any frames that a device past the init list takes. -/
theorem DisplayInv.queue {s t : State} (hs : DisplayInv s) (hq : s.txq = []) (hs0 : s.phase ≠ phInitCode ∧ s.phase ≠ phStalledCode)
    (h : LeavesDisplay s t) (ht0 : t.phase ≠ phInitCode ∧ t.phase ≠ phClearCode) (htxq : TakenPastInit s.params.colOrigin t.txq) :
    DisplayInv t := by
  obtain ⟨-, -, hfits⟩ := (displayInv_iff s).mp hs
  rw [hq] at hfits
  exact hs.of_queueFits h (queueFits_of_taken ht0.1 ht0.2 htxq (hfits.initCount_of_nil hs0.1 hs0.2))

theorem displayInv_foreground {w : StimWord} {i : Instr} {s t : State} (hi : decodeForeground s.phase (!s.txq.isEmpty) w = .ok i)
    (hs : DisplayInv s) (h : exec i s = .next t) : DisplayInv (devicePart t) := by
  have hturn {u : State} (hu : DisplayInv u) : DisplayInv (devicePart u) := by rwa [devicePart_empty hu.1]
  rcases exec_foreground_cases hi h with ⟨-, -, rfl⟩ | ⟨hlt, -, f, rest, hq, rfl | rfl⟩ | ⟨hq, hphase⟩
  · exact hturn hs
  · exact displayInv_sent hs hq fun h12 => by simp [h12] at hlt
  · exact hturn (displayInv_pollFailed hs)
  refine hturn ?_
  have hidle {u : State} (hs0 : s.phase ≠ phInitCode ∧ s.phase ≠ phStalledCode) (hu : LeavesDisplay s u) (hutxq : u.txq = s.txq)
      (hu0 : u.phase ≠ phInitCode ∧ u.phase ≠ phClearCode) : DisplayInv u :=
    hs.queue hq hs0 hu hu0 (by rw [hutxq, hq]; exact .nil _)
  rcases hphase with ⟨-, hp, rfl⟩ | ⟨-, hp, rfl⟩ | ⟨-, hp, rfl⟩ | ⟨-, hp, rfl | rfl⟩ | ⟨-, hp, rfl⟩ | ⟨-, hp, rfl⟩ | ⟨-, hp, rfl⟩ |
    ⟨-, hp, rfl⟩ | ⟨-, hp, rfl⟩ | ⟨-, hp, ⟨-, rfl⟩ | ⟨-, rfl⟩⟩ | ⟨-, hp, rfl⟩ | ⟨-, hp, rfl | rfl⟩
  · obtain ⟨-, -, hinit, -⟩ := (displayInv_iff s).mp hs
    exact hs.of_queueFits ⟨rfl, rfl, rfl, rfl⟩ (queueFits_initFrames _ (hinit hp).2)
  · exact hs.queue hq (hp ▸ ⟨nofun, nofun⟩) ⟨rfl, rfl, rfl, rfl⟩ ⟨nofun, nofun⟩ (takenPastInit_clear _)
  · exact hidle (hp ▸ ⟨nofun, nofun⟩) ⟨rfl, rfl, rfl, rfl⟩ rfl ⟨nofun, nofun⟩
  · exact hidle (hp ▸ ⟨nofun, nofun⟩) ⟨rfl, rfl, rfl, rfl⟩ rfl ⟨nofun, nofun⟩
  · exact displayInv_pollFailed hs
  · exact hidle (hp ▸ ⟨nofun, nofun⟩) ⟨rfl, rfl, rfl, rfl⟩ rfl ⟨nofun, nofun⟩
  · exact hidle (hp ▸ ⟨nofun, nofun⟩) ⟨rfl, rfl, rfl, rfl⟩ rfl ⟨nofun, nofun⟩
  · exact hidle (hp ▸ ⟨nofun, nofun⟩) ⟨rfl, rfl, rfl, rfl⟩ rfl ⟨nofun, nofun⟩
  · exact hs.queue hq (hp ▸ ⟨nofun, nofun⟩) ⟨rfl, rfl, rfl, rfl⟩ ⟨nofun, nofun⟩ (takenPastInit_text _ _ _ _)
  · exact hs.queue hq (hp ▸ ⟨nofun, nofun⟩) ⟨rfl, rfl, rfl, rfl⟩ ⟨nofun, nofun⟩ (takenPastInit_text _ _ _ _)
  · obtain ⟨hleaves, -, htxq⟩ := (leavesOtherSide_capEdge { s with edgeMask := false, edgePend := false }).leavesDisplay
    exact hidle (hp ▸ ⟨nofun, nofun⟩) hleaves htxq ⟨nofun, nofun⟩
  · exact hidle (hp ▸ ⟨nofun, nofun⟩) ⟨rfl, rfl, rfl, rfl⟩ rfl ⟨nofun, nofun⟩
  · exact hidle (hp ▸ ⟨nofun, nofun⟩) ⟨rfl, rfl, rfl, rfl⟩ rfl ⟨nofun, nofun⟩
  · exact hidle (hp ▸ ⟨nofun, nofun⟩) ⟨rfl, rfl, rfl, rfl⟩ rfl ⟨nofun, nofun⟩
  · exact hs

theorem displayInv_resetStep (s : State) : DisplayInv (resetStep s) :=
  ⟨rfl, rfl, fun _ => ⟨rfl, rfl⟩, nofun, fun h => absurd rfl h⟩

/-- Settles O58: events leave the display, and a foreground step with the display's turn behind it keeps the invariant, at a reserved `PHASE`
too, where none is selected. -/
theorem displayNeverRefusesAFrame : Obligations.DisplayNeverRefusesAFrame := by
  intro s t _ hs h
  obtain ⟨ins, n, hin⟩ := afterInput_frame s
  have hs' : DisplayInv (afterInput s) := hs.of_leavesDisplay (hin ▸ ⟨rfl, rfl, rfl, rfl⟩) (by rw [hin]) (by rw [hin])
  cases hw : nextInput s with
  | rst =>
    rw [step, hw] at h
    cases h
    exact displayInv_resetStep _
  | stim w =>
    rw [step, hw] at h
    obtain ⟨e, f, he, hf, rfl⟩ := globalStep_next h
    have hPe : DisplayInv e := execAll_keeps (fun i hi u v hu hx => displayInv_event (context_of_event (mem_decodeEvents hi)) hu hx) hs' he
    rcases foregroundPart_cases hf with ⟨-, rfl⟩ | ⟨-, i, hi, hx⟩
    · rwa [devicePart_empty hPe.1]
    · exact displayInv_foreground hi hPe hx

end Sys2Proof.Machine
end

section
/-! SUPPORT. The mask window (20_memory.md R65): a step that starts and ends masked performs no qualifying edge, so only its tick reaches the
capture registers. -/

namespace Sys2Proof.Machine

/-- In a masked step from `s`, at `u`: still masked, `HZ` and `START_TICKS` as at `s`, and `ARMED` too, unless the counter of `s` has wrapped. -/
def FrozenFrom (s u : State) : Prop :=
  u.edgeMask = true ∧ u.hz = s.hz ∧ u.startTicks = s.startTicks ∧
    (u.armed = s.armed ∨ u.armed = false ∧ s.cntRun = true ∧ s.cnt = 0xFFFFFFFF#32)

theorem FrozenFrom.of_same {s u v : State} (h : FrozenFrom s u) (hm : v.edgeMask = true) (hz : v.hz = u.hz)
    (hst : v.startTicks = u.startTicks) (ha : v.armed = u.armed) : FrozenFrom s v := by
  obtain ⟨-, hreading⟩ := h
  exact ⟨hm, by rwa [hz, hst, ha]⟩

theorem frozenFrom_tick {s t : State} (hs : s.edgeMask = true) (h : exec .tick s = .next t) : FrozenFrom s t := by
  rcases exec_event_cases (.inl rfl) h with ⟨-, ht⟩ | ⟨hi, -⟩ | ⟨hi, -⟩ | ⟨hi, -⟩
  · rcases ht with ⟨-, rfl⟩ | ⟨-, -, rfl⟩ | ⟨hrun, hcnt, rfl⟩
    · exact ⟨hs, rfl, rfl, .inl rfl⟩
    · exact ⟨hs, rfl, rfl, .inl rfl⟩
    · exact ⟨hs, rfl, rfl, .inr ⟨rfl, hrun, hcnt⟩⟩
  all_goals cases hi

/-- A masked edge is latched or dropped; the other events but the tick are the debounce unit's. -/
theorem FrozenFrom.event {i : Instr} {s u v : State} (hi : i = .fedge ∨ i = .mstick ∨ i = .bedge) (hu : FrozenFrom s u)
    (h : exec i u = .next v) : FrozenFrom s v := by
  rcases exec_event_cases (.inr hi) h with ⟨rfl, -⟩ | ⟨-, hv⟩ | ⟨-, rfl⟩ | ⟨-, hv⟩
  · simp at hi
  · rcases hv with ⟨-, -, rfl⟩ | ⟨-, -, rfl⟩ | ⟨hunmasked, -⟩
    · exact hu
    · exact hu
    · exact absurd hu.1 (by simp [hunmasked])
  · exact hu
  · rcases hv with ⟨-, rfl⟩ | ⟨-, rfl⟩ <;> exact hu

theorem frozenFrom_eventPart {w : StimWord} {s t : State} (hs : s.edgeMask = true) (h : eventPart w s = .next t) : FrozenFrom s t := by
  obtain ⟨is, hw, his⟩ := decodeEvents_tick_first w
  rw [eventPart, hw, execAll_append] at h
  obtain ⟨u, htick, hrest⟩ := andThen_eq_next h
  have hu : FrozenFrom s u := by
    split at htick
    · obtain ⟨v, hv, hnil⟩ := andThen_eq_next htick
      cases hnil
      exact frozenFrom_tick hs hv
    · cases htick
      exact ⟨hs, rfl, rfl, .inl rfl⟩
  exact execAll_keeps (P := FrozenFrom s) (fun i hi _ _ hP => hP.event (his i hi)) hu hrest

theorem exec_phUnmask_edgeMask {s t : State} (h : exec .phUnmask s = .next t) : t.edgeMask = false := by
  rcases exec_phUnmask_cases h with rfl | rfl
  · obtain ⟨⟨-, -, -, -, -, -, -, -, -, hmask, -⟩, -⟩ := leavesOtherSide_capEdge { s with edgeMask := false, edgePend := false }
    exact hmask.symm
  · rfl

/-- A foreground operation after which the edge event is masked is not `PH_UNMASK`, the one that reaches the capture registers. -/
theorem FrozenFrom.foreground {i : Instr} {s u v : State} (hi : Instr.context i = .foreground) (hu : FrozenFrom s u)
    (h : exec i u = .next v) (hv : v.edgeMask = true) : FrozenFrom s v := by
  have hun : i ≠ .phUnmask := by
    rintro rfl
    exact absurd hv (by simp [exec_phUnmask_edgeMask h])
  obtain ⟨ha, -, -, hst, hz, -⟩ := leavesEventSide_foreground hi hun h
  exact hu.of_same hv hz hst ha

theorem frozenFrom_globalStep {w : StimWord} {s t : State} (hs : s.edgeMask = true) (h : globalStep w s = .next t)
    (ht : t.edgeMask = true) : FrozenFrom s t := by
  obtain ⟨e, f, he, hf, rfl⟩ := globalStep_next h
  obtain ⟨d, wire, hdev⟩ := devicePart_frame f
  rw [hdev] at ht ⊢
  change FrozenFrom s f
  rcases foregroundPart_cases hf with ⟨-, rfl⟩ | ⟨-, i, hi, hx⟩
  · exact frozenFrom_eventPart hs he
  · exact (frozenFrom_eventPart hs he).foreground (decodeForeground_context hi) hx ht

/-- Settles O17: the clauses of `FrozenFrom` over a whole step. -/
theorem maskWindowFreezesReading : Obligations.MaskWindowFreezesReading := by
  intro s t hw h hs ht
  obtain ⟨w, hstep⟩ := step_takesStimulus hw
  obtain ⟨ins, n, hin⟩ := afterInput_frame s
  rw [hstep, hin] at h
  obtain ⟨-, hz, hst, harmed⟩ := frozenFrom_globalStep (s := { s with inputs := ins, envStep := n }) hs h ht
  refine ⟨hz, hst, fun ha => ?_, fun ha hna => ?_⟩
  · rcases harmed with he | ⟨hna, -⟩
    · exact he.symm.trans ha
    · simp [ha] at hna
  · rcases harmed with he | ⟨-, hwrap⟩
    · exact absurd (he.symm.trans hna) (by simp [ha])
    · exact hwrap

end Sys2Proof.Machine
end

section
/-! SUPPORT. The three formats (30_encoding.md R70 to R77): the fields of a stimulus word, the one operation of a foreground step, the operation
of a frame by its mask, and the word of every operation read back. -/

namespace Sys2Proof

/-! ### The fields of a foreground word (R70) -/

/-- A placed bit stands at its place and nowhere else. -/
theorem getElem_stimBit (place : Nat) (b : Bool) {i : Nat} (h : i < 19) : (stimBit place b)[i] = (decide (i = place) && b) := by
  cases b with
  | false => simp [stimBit]
  | true =>
    rw [stimBit, if_pos rfl, ← BitVec.twoPow_eq, BitVec.getElem_twoPow]
    simp

theorem fgWord_adcRdy (adcRdy busRdy : Bool) (adcData : AnalogCode) : (fgWord adcRdy busRdy adcData).adcRdy = adcRdy := by
  simp [StimWord.adcRdy, fgWord, stimWord, getElem_stimBit]

theorem fgWord_busRdy (adcRdy busRdy : Bool) (adcData : AnalogCode) : (fgWord adcRdy busRdy adcData).busRdy = busRdy := by
  simp [StimWord.busRdy, fgWord, stimWord, getElem_stimBit]

/-- The 7 bits below the analog code do not reach it. -/
theorem fgWord_adcData (adcRdy busRdy : Bool) (adcData : AnalogCode) : (fgWord adcRdy busRdy adcData).adcData = adcData := by
  refine BitVec.eq_of_getLsbD_eq fun i hi => ?_
  have hbit (place : Nat) (b : Bool) (hplace : place < 7) : (stimBit place b)[7 + i] = false := by
    rw [getElem_stimBit, decide_eq_false (by omega), Bool.false_and]
  simp [StimWord.adcData, fgWord, stimWord, hi, show 7 + i < 19 by omega, hbit]

/-! ### The operation of a foreground step (R73, R74, R84) -/

theorem legalPhase_of_lt {code : PhaseCode} (h : code.toNat < 12) : legalPhase code = true := decide_eq_true h.le

theorem ne_phStalledCode_of_lt {code : PhaseCode} (h : code.toNat < 12) : code ≠ phStalledCode := by
  rintro rfl
  exact absurd h (by decide)

theorem decodeForeground_stalled (queued : Bool) (w : StimWord) : decodeForeground phStalledCode queued w = .ok .phStalled := rfl

theorem decodeForeground_queued {code : PhaseCode} (h : code.toNat < 12) (w : StimWord) :
    decodeForeground code true w = .ok (.send w.busRdy) := by
  simp [decodeForeground, legalPhase_of_lt h, ne_phStalledCode_of_lt h]

/-- With an empty queue the operation is the phase's. -/
theorem decodeForeground_idle {code : PhaseCode} (h : code.toNat < 12) (w : StimWord) :
    decodeForeground code false w = decodePhase code w := by
  simp [decodeForeground, legalPhase_of_lt h, ne_phStalledCode_of_lt h]

theorem decodeForeground_reserved {code : PhaseCode} (h : 13 ≤ code.toNat) (queued : Bool) (w : StimWord) :
    decodeForeground code queued w = .error (.reservedPhase code) := by
  have hcode : legalPhase code = false := decide_eq_false (by omega)
  simp [decodeForeground, hcode]

theorem decodePhase_wait (w : StimWord) : decodePhase phWaitCode w = .ok (.phWait w.adcRdy w.adcData) := rfl

/-- Every phase below the stop has an operation. -/
theorem decodePhase_of_lt {code : PhaseCode} (h : code.toNat < 12) (w : StimWord) : ∃ i, decodePhase code w = .ok i := by
  obtain ⟨n, hn, rfl⟩ : ∃ n < 12, code = BitVec.ofNat 4 n := ⟨code.toNat, h, by simp⟩
  interval_cases n <;> exact ⟨_, rfl⟩

theorem decodeForeground_of_le {code : PhaseCode} (h : code.toNat ≤ 12) (queued : Bool) (w : StimWord) :
    ∃ i, decodeForeground code queued w = .ok i := by
  rcases h.lt_or_eq with hlt | heq
  · cases queued with
    | true => exact ⟨_, decodeForeground_queued hlt w⟩
    | false =>
      rw [decodeForeground_idle hlt]
      exact decodePhase_of_lt hlt w
  · obtain rfl : code = phStalledCode := BitVec.eq_of_toNat_eq heq
    exact ⟨_, decodeForeground_stalled queued w⟩

/-! ### The operation of a frame (R76, R77, R82) -/

/-- A mask that covers bit 8 and its match tell a frame's `DC` bit. -/
theorem isData_of_match {f m v : Frame} (hm : m.isData = true) (h : f &&& m = v) : f.isData = v.isData := by
  subst h
  simp only [Frame.isData] at hm ⊢
  rw [BitVec.getElem_and, hm, Bool.and_true]

/-- What a mask matches, a smaller mask matches in the part it covers. -/
theorem match_smaller {f m v : Frame} (h : f &&& m = v) (n : Frame) : f &&& (m &&& n) = v &&& n := by
  rw [← BitVec.and_assoc, h]

/-- The mask of `DATA` (R77) covers bit 8 only. -/
theorem isData_iff {f : Frame} : f.isData = true ↔ f &&& 0x100#9 = 0x100#9 := by
  have hmask : f &&& 0x100#9 = if f.isData then 0x100#9 else 0x000#9 := BitVec.and_twoPow f 8
  rw [hmask]
  cases f.isData <;> decide

theorem decodeFrame_data (initDone : Bool) {f : Frame} (h : f.isData = true) : decodeFrame initDone f = .ok (.data f.byte) := by
  rw [decodeFrame, if_pos h]

theorem decodeFrame_initCmd {f : Frame} (h : f.isData = false) : decodeFrame false f = .ok (.initCmd f.byte) := by
  simp [decodeFrame, h]

theorem decodeFrame_pageSel {f : Frame} (h : f &&& 0x1F8#9 = 0x0B0#9) : decodeFrame true f = .ok (.pageSel (f.extractLsb' 0 3)) := by
  have hcmd : f.isData = false := isData_of_match rfl h
  simp [decodeFrame, hcmd, h]

theorem decodeFrame_colLo {f : Frame} (h : f &&& 0x1F0#9 = 0x000#9) : decodeFrame true f = .ok (.colLo (f.extractLsb' 0 4)) := by
  have hcmd : f.isData = false := isData_of_match rfl h
  have hpage : f &&& 0x1F8#9 ≠ 0x0B0#9 := fun hp => absurd (h.symm.trans (match_smaller hp 0x1F0#9)) (by decide)
  simp [decodeFrame, hcmd, hpage, h]

theorem decodeFrame_colHi {f : Frame} (h : f &&& 0x1F0#9 = 0x010#9) : decodeFrame true f = .ok (.colHi (f.extractLsb' 0 4)) := by
  have hcmd : f.isData = false := isData_of_match rfl h
  have hpage : f &&& 0x1F8#9 ≠ 0x0B0#9 := fun hp => absurd (h.symm.trans (match_smaller hp 0x1F0#9)) (by decide)
  simp [decodeFrame, hcmd, hpage, h]

theorem decodeFrame_unknown {f : Frame} (h : legalFrame f = false) : decodeFrame true f = .error (.unknownCommand f.byte) := by
  simp only [legalFrame, Bool.or_eq_false_iff, beq_eq_false_iff_ne] at h
  obtain ⟨⟨⟨hdata, hpage⟩, hlo⟩, hhi⟩ := h
  simp [decodeFrame, mt isData_iff.mp hdata, hpage, hlo, hhi]

theorem pageSel_frame (p : Page) :
    (0x0B0#9 ||| p.setWidth 9) &&& 0x1F8#9 = 0x0B0#9 ∧ (0x0B0#9 ||| p.setWidth 9).extractLsb' 0 3 = p := by
  revert p; decide

theorem colLo_frame (n : BitVec 4) :
    (0x000#9 ||| n.setWidth 9) &&& 0x1F0#9 = 0x000#9 ∧ (0x000#9 ||| n.setWidth 9).extractLsb' 0 4 = n := by
  revert n; decide

theorem colHi_frame (n : BitVec 4) :
    (0x010#9 ||| n.setWidth 9) &&& 0x1F0#9 = 0x010#9 ∧ (0x010#9 ||| n.setWidth 9).extractLsb' 0 4 = n := by
  revert n; decide

/-! ### What selects one operation -/

theorem decode_foreground_iff {code : PhaseCode} {queued : Bool} {w : StimWord} {i : Instr} :
    decode (.foreground code queued w) = .ok [i] ↔ decodeForeground code queued w = .ok i := by
  rw [decode]
  cases decodeForeground code queued w <;> simp [Except.map]

theorem decode_frame_iff {initDone : Bool} {f : Frame} {i : Instr} :
    decode (.frame initDone f) = .ok [i] ↔ decodeFrame initDone f = .ok i := by
  rw [decode]
  cases decodeFrame initDone f <;> simp [Except.map]

theorem decode_frame_error_iff {initDone : Bool} {f : Frame} {e : DecodeError} :
    decode (.frame initDone f) = .error e ↔ decodeFrame initDone f = .error e := by
  rw [decode]
  cases decodeFrame initDone f <;> simp [Except.map]

end Sys2Proof

namespace Sys2Proof.Machine

/-- Settles O3: the priority of R73, then the table of R74. -/
theorem foregroundStepSelectsOneOperation : Obligations.ForegroundStepSelectsOneOperation := fun w =>
  ⟨fun queued => decodeForeground_stalled queued w, fun _ h => decodeForeground_queued h w,
    rfl, rfl, rfl, rfl, rfl, rfl, rfl, rfl, rfl, rfl, rfl, rfl⟩

/-- Settles O5: one lemma per row of the frame map. -/
theorem frameMapByPositionAndValue : Obligations.FrameMapByPositionAndValue :=
  ⟨fun _ => decodeFrame_pageSel, fun _ => decodeFrame_colLo, fun _ => decodeFrame_colHi,
    fun initDone _ h => decodeFrame_data initDone (isData_iff.mpr h), fun _ h => decodeFrame_initCmd (isData_of_match rfl h),
    fun _ => decodeFrame_unknown⟩

/-- Settles O6: the operands are read back from the fields of the word or the frame they were placed in. -/
theorem decodeEncodeRoundTrip : Obligations.DecodeEncodeRoundTrip := by
  intro i hi
  cases i with
  | ovf => cases hi
  | tick | fedge | mstick | bedge => exact ⟨_, rfl, rfl⟩
  | send busRdy =>
    refine ⟨_, rfl, decode_foreground_iff.mpr ?_⟩
    rw [decodeForeground_queued (by decide), fgWord_busRdy]
  | phWait adcRdy adcData =>
    refine ⟨_, rfl, decode_foreground_iff.mpr ?_⟩
    rw [decodeForeground_idle (by decide), decodePhase_wait, fgWord_adcRdy, fgWord_adcData]
  | phInit | phClear | phStart | phDac | phCompute | phMask | phRenderR | phRenderF | phUnmask | phDelayArm | phDelayWait | phStalled =>
    exact ⟨_, rfl, decode_foreground_iff.mpr rfl⟩
  | initCmd byte =>
    refine ⟨_, rfl, decode_frame_iff.mpr ?_⟩
    rw [decodeFrame_initCmd (cmdFrame_isData byte), cmdFrame_byte]
  | pageSel page =>
    obtain ⟨hmatch, hpage⟩ := pageSel_frame page
    refine ⟨_, rfl, decode_frame_iff.mpr ?_⟩
    rw [decodeFrame_pageSel hmatch, hpage]
  | colLo nibble =>
    obtain ⟨hmatch, hnibble⟩ := colLo_frame nibble
    refine ⟨_, rfl, decode_frame_iff.mpr ?_⟩
    rw [decodeFrame_colLo hmatch, hnibble]
  | colHi nibble =>
    obtain ⟨hmatch, hnibble⟩ := colHi_frame nibble
    refine ⟨_, rfl, decode_frame_iff.mpr ?_⟩
    rw [decodeFrame_colHi hmatch, hnibble]
  | data byte =>
    refine ⟨_, rfl, decode_frame_iff.mpr ?_⟩
    rw [decodeFrame_data true (dataFrame_isData byte), dataFrame_byte]

/-- Settles O7: strobes, foreground words and frames, each by evaluation of the decoder on its bits. -/
theorem writtenOutWordsDecode : Obligations.WrittenOutWordsDecode :=
  ⟨rfl, rfl, rfl, rfl, rfl, rfl, rfl, rfl, rfl, rfl, rfl⟩

end Sys2Proof.Machine
end

section
/-! SUPPORT. A stimulus word performed (30_encoding.md R70, R71, R84): its parts as functions of its bits, and that none of them is refused from a
legal `PHASE`, so that no step and no run is. -/

namespace Sys2Proof.Machine

/-! ### The parts of a step, one operation at a time -/

/-- A strobe performs its operation where it is set. -/
theorem execAll_strobe (b : Bool) (i : Instr) : execAll (if b then [i] else []) = fun s => if b then exec i s else .next s := by
  cases b with
  | false => rfl
  | true => exact funext fun s => andThen_pure _

theorem eventPart_eq (w : StimWord) (s : State) :
    eventPart w s =
      andThen (if w[0] then exec .tick s else .next s) fun a =>
      andThen (if w[1] then exec .fedge a else .next a) fun b =>
      andThen (if w[2] then exec .mstick b else .next b) fun c =>
      if w[3] then exec .bedge c else .next c := by
  simp only [eventPart, decodeEvents, execAll_append, andThen_assoc, execAll_strobe]
  rfl

theorem eventPart_of_decode {w : StimWord} {is : List Instr} (h : decode (.strobes w) = .ok is) : eventPart w = execAll is :=
  congrArg execAll (Except.ok.inj h)

theorem foregroundPart_without_fg {w : StimWord} (h : w.fg = false) (s : State) : foregroundPart w s = .next s := by
  simp [foregroundPart, h]

theorem foregroundPart_of_ok {w : StimWord} {s : State} {i : Instr} (hfg : w.fg = true)
    (h : decodeForeground s.phase (!s.txq.isEmpty) w = .ok i) : foregroundPart w s = exec i s := by
  simp [foregroundPart, hfg, h]

theorem foregroundPart_of_error {w : StimWord} {s : State} {e : DecodeError} (hfg : w.fg = true)
    (h : decodeForeground s.phase (!s.txq.isEmpty) w = .error e) : foregroundPart w s = .refused (decodeRefusal e) := by
  simp [foregroundPart, hfg, h]

section
variable {s : State} {f : Frame} {fs : List Frame}

/-- What the display reads from the wire: the oldest frame, where the device stands in its init list. -/
theorem deviceFetch_cons (h : s.wire = f :: fs) : deviceFetch s = some (decodeFrame (decide (initLen ≤ s.dev.initCount)) f) := by
  simp [deviceFetch, h]

theorem devicePart_of_next {i : Instr} {t : State} (h : s.wire = f :: fs)
    (hi : decodeFrame (decide (initLen ≤ s.dev.initCount)) f = .ok i) (hx : exec i { s with wire := fs } = .next t) :
    devicePart s = t := by
  simp only [devicePart, deviceFetch_cons h, hi, h, List.tail_cons, hx]

theorem devicePart_of_refused {i : Instr} {r : Refusal} (h : s.wire = f :: fs)
    (hi : decodeFrame (decide (initLen ≤ s.dev.initCount)) f = .ok i) (hx : exec i { s with wire := fs } = .refused r) :
    devicePart s = s := by
  simp only [devicePart, deviceFetch_cons h, hi, h, List.tail_cons, hx]

theorem devicePart_of_error {e : DecodeError} (h : s.wire = f :: fs)
    (he : decodeFrame (decide (initLen ≤ s.dev.initCount)) f = .error e) : devicePart s = s := by
  simp only [devicePart, deviceFetch_cons h, he]

end

/-- Settles O1: the parts of the step, each at the operation its word decodes to. -/
theorem stepRunsDecodedOperation : Obligations.StepRunsDecodedOperation := by
  have hstep (s : State) (w : StimWord) (rest : List Input) (h : s.inputs = .stim w :: rest) :
      step s = andThen (andThen (eventPart w { s with inputs := rest }) (foregroundPart w)) fun t => .next (devicePart t) := step_listed h
  refine ⟨hstep, fun s w rest i h hev hfg => ?_, fun s w rest i h hev hfg hi => ?_, fun s t w rest f fs i h hev hfg hwire hi hx => ?_,
    fun s f fs i r hwire hi hx => ?_, fun s f fs e hwire he => ?_⟩
  · rw [hstep s w rest h, eventPart_of_decode hev, execAll_cons, funext (foregroundPart_without_fg hfg)]
    simp
  · rw [hstep s w rest h, eventPart_of_decode hev, execAll_nil, andThen_next,
      foregroundPart_of_ok (s := { s with inputs := rest }) hfg (decode_foreground_iff.mp hi)]
  · rw [hstep s w rest h, eventPart_of_decode hev, execAll_nil, andThen_next, foregroundPart_without_fg hfg, andThen_next,
      devicePart_of_next (s := { s with inputs := rest }) hwire (decode_frame_iff.mp hi) hx]
  · exact devicePart_of_refused hwire (decode_frame_iff.mp hi) hx
  · exact devicePart_of_error hwire (decode_frame_error_iff.mp he)

/-! ### Without `FG` only the strobes count (R70) -/

theorem getElem_of_low_eq {w v : StimWord} (h : w.extractLsb' 0 5 = v.extractLsb' 0 5) {i : Nat} (hi : i < 5) : w[i] = v[i] := by
  simpa [hi, ← BitVec.getLsbD_eq_getElem] using congrArg (fun x : BitVec 5 => x[i]) h

theorem blockPart_eq_of_low_eq {w v : StimWord} (hfg : w[4] = false) (h : w.extractLsb' 0 5 = v.extractLsb' 0 5) (s : State) :
    andThen (eventPart w s) (foregroundPart w) = andThen (eventPart v s) (foregroundPart v) := by
  have hfg' : v[4] = false := (getElem_of_low_eq h (by decide)).symm.trans hfg
  have hevents : eventPart w s = eventPart v s := by
    simp (disch := decide) only [eventPart_eq, getElem_of_low_eq h]
  rw [hevents, funext (foregroundPart_without_fg hfg), funext (foregroundPart_without_fg hfg')]

/-- Settles O8: the step is the block's part, then the display's turn, which reads no word. -/
theorem readyBitsIgnoredWithoutForeground : Obligations.ReadyBitsIgnoredWithoutForeground := fun _ _ s hfg h =>
  congrArg (fun o => andThen o fun t => .next (devicePart t)) (blockPart_eq_of_low_eq hfg h s)

/-! ### No part is refused from a legal `PHASE` (R71, R84) -/

theorem execAll_events_complete {is : List Instr} (h : ∀ i ∈ is, Instr.context i = .event) (s : State) :
    ∃ t, execAll is s = .next t ∧ t.phase = s.phase := by
  induction is generalizing s with
  | nil => exact ⟨s, rfl, rfl⟩
  | cons i is ih =>
    obtain ⟨u, hu⟩ := exec_event_completes (h i List.mem_cons_self) s
    obtain ⟨-, hphase, -⟩ := (leavesOtherSide_event (h i List.mem_cons_self) hu).leavesDisplay
    obtain ⟨t, ht, hphase'⟩ := ih (fun j hj => h j (List.mem_cons_of_mem _ hj)) u
    exact ⟨t, by rw [execAll_cons, hu, andThen_next, ht], hphase'.trans hphase⟩

/-- A foreground operation answers a next state; `SEND` needs a frame (43_display.md R134). -/
theorem exec_foreground_completes {i : Instr} {s : State} (hi : Instr.context i = .foreground)
    (hq : ∀ busRdy, i = .send busRdy → s.txq ≠ []) : ∃ t, exec i s = .next t := by
  cases i with
  | send busRdy =>
    obtain ⟨f, rest, htxq⟩ := List.exists_cons_of_ne_nil (hq busRdy rfl)
    simp only [exec, execSend, htxq]
    split_ifs <;> exact ⟨_, rfl⟩
  | phWait adcRdy adcData => cases adcRdy <;> exact ⟨_, rfl⟩
  | phUnmask =>
    simp only [exec, execPhUnmask]
    split_ifs <;> exact ⟨_, rfl⟩
  | phDelayWait =>
    simp only [exec, execPhDelayWait]
    split_ifs <;> exact ⟨_, rfl⟩
  | phInit | phClear | phStart | phDac | phCompute | phMask | phRenderR | phRenderF | phDelayArm | phStalled => exact ⟨_, rfl⟩
  | _ => cases hi

/-- `SEND` is selected only while a frame is queued (R73). -/
theorem queued_of_decodeForeground_send {code : PhaseCode} {queued : Bool} {w : StimWord} {busRdy : Bool}
    (h : decodeForeground code queued w = .ok (.send busRdy)) : queued = true := by
  obtain ⟨-, ⟨-, hi⟩ | ⟨-, hq, -⟩ | ⟨-, -, hi⟩⟩ := decodeForeground_cases h
  · cases hi
  · exact hq
  · rcases decodePhase_cases hi with h | h | h | h | h | h | h | h | h | h | h | h | h <;> cases h.2

theorem foregroundPart_completes (w : StimWord) {s : State} (h : s.phase.toNat ≤ 12) : ∃ t, foregroundPart w s = .next t := by
  cases hfg : w.fg with
  | false => exact ⟨s, foregroundPart_without_fg hfg s⟩
  | true =>
    obtain ⟨i, hi⟩ := decodeForeground_of_le h (!s.txq.isEmpty) w
    rw [foregroundPart_of_ok hfg hi]
    refine exec_foreground_completes (decodeForeground_context hi) ?_
    rintro busRdy rfl
    simpa using queued_of_decodeForeground_send hi

theorem blockPart_completes (w : StimWord) {s : State} (h : s.phase.toNat ≤ 12) :
    ∃ t, andThen (eventPart w s) (foregroundPart w) = .next t := by
  obtain ⟨e, he, hphase⟩ := execAll_events_complete (fun _ hi => context_of_event (mem_decodeEvents (w := w) hi)) s
  rw [eventPart, he, andThen_next]
  exact foregroundPart_completes w (hphase ▸ h)

/-- Settles O2: the event part unfolded over the strobes, a word that agrees in bits 4:0 with the word 0, and the completeness of both parts. -/
theorem stimulusWordIsASequence : Obligations.StimulusWordIsASequence := by
  refine ⟨fun w s => ?_, fun w s h => ?_, fun w s => blockPart_completes w⟩
  · have hfg (d : State) : (if w[4] then foregroundPart w d else .next d) = foregroundPart w d := by
      cases h : w[4] with
      | false => exact (foregroundPart_without_fg h d).symm
      | true => rfl
    simp only [eventPart_eq, andThen_assoc, hfg]
  · have hlow : w.extractLsb' 0 5 = (0#19).extractLsb' 0 5 := BitVec.eq_of_toNat_eq (by simpa using h)
    exact blockPart_eq_of_low_eq (getElem_of_low_eq hlow (i := 4) (by decide)) hlow s

/-- Settles O4: the decoder names the reserved code, whatever is queued. -/
theorem reservedPhaseRefusesForeground : Obligations.ReservedPhaseRefusesForeground := fun s w h hfg =>
  foregroundPart_of_error (w := w) hfg (decodeForeground_reserved h (!s.txq.isEmpty) w)

/-- Settles O27: the empty branch of `SEND`, and the priority of R73. -/
theorem sendNeedsAQueuedFrame : Obligations.SendNeedsAQueuedFrame := by
  refine ⟨fun s busRdy h => ?_, fun code w busRdy h => ?_⟩
  · simp only [exec, execSend, h]
  · cases queued_of_decodeForeground_send h

/-! ### A legal `PHASE` stays legal -/

theorem phaseInv_pollFailed {s : State} (h : PhaseInv s) : PhaseInv (pollFailed s) := by
  obtain ⟨-, -, hphase | hphase⟩ := leavesDisplay_pollFailed s
  · rwa [PhaseInv, hphase]
  · rw [PhaseInv, hphase]; rfl

/-- A selected foreground operation keeps `PHASE`, stops the sequencer, or writes one of the codes 1 to 11 (44_sampling.md R161). -/
theorem phaseInv_foreground {w : StimWord} {i : Instr} {s t : State} (hi : decodeForeground s.phase (!s.txq.isEmpty) w = .ok i)
    (hs : PhaseInv s) (h : exec i s = .next t) : PhaseInv t := by
  rcases exec_foreground_cases hi h with ⟨-, -, rfl⟩ | ⟨-, -, f, rest, -, rfl | rfl⟩ | ⟨-, hphase⟩
  · exact hs
  · exact hs
  · exact phaseInv_pollFailed hs
  rcases hphase with ⟨-, -, rfl⟩ | ⟨-, -, rfl⟩ | ⟨-, -, rfl⟩ | ⟨-, -, rfl | rfl⟩ | ⟨-, -, rfl⟩ | ⟨-, -, rfl⟩ | ⟨-, -, rfl⟩ | ⟨-, -, rfl⟩ |
    ⟨-, -, rfl⟩ | ⟨-, -, ⟨-, rfl⟩ | ⟨-, rfl⟩⟩ | ⟨-, -, rfl⟩ | ⟨-, -, rfl | rfl⟩
  iterate 4 rfl
  · exact phaseInv_pollFailed hs
  iterate 9 rfl
  · exact hs

theorem phaseInv_afterInput {s : State} (hs : PhaseInv s) : PhaseInv (afterInput s) := by
  obtain ⟨ins, n, hin⟩ := afterInput_frame s
  rwa [hin]

theorem phaseInv_step {s t : State} (hs : PhaseInv s) (h : step s = .next t) : PhaseInv t := by
  refine step_keeps (P := PhaseInv) (fun u => phaseInv_afterInput) (fun u _ => rfl) (fun i u v hi hu hx => ?_)
    (fun w i u v => phaseInv_foreground) (fun u hu => ?_) hs h
  · obtain ⟨-, hphase, -⟩ := (leavesOtherSide_event (context_of_event hi) hx).leavesDisplay
    rwa [PhaseInv, hphase]
  · obtain ⟨d, wire, hdev⟩ := devicePart_frame u
    rwa [hdev]

theorem step_completes {s : State} (hs : PhaseInv s) : ∃ t, step s = .next t := by
  cases hin : nextInput s with
  | rst => exact ⟨_, by rw [step, hin]; rfl⟩
  | stim w =>
    obtain ⟨t, ht⟩ := blockPart_completes w (of_decide_eq_true (phaseInv_afterInput hs))
    exact ⟨devicePart t, by rw [step, hin, inputStep, globalStep, ht, andThen_next]⟩

theorem safeRun_of_phaseInv (k : Nat) {s : State} (hs : PhaseInv s) : SafeRun k s := by
  induction k generalizing s with
  | zero => exact ⟨s, rfl⟩
  | succ k ih =>
    obtain ⟨t, ht⟩ := step_completes hs
    obtain ⟨u, hu⟩ := ih (phaseInv_step hs ht)
    exact ⟨u, by rw [run_succ, ht, andThen_next, hu]⟩

/-- Settles O55: every step completes and keeps `PhaseInv`, then by induction on the run. -/
theorem everyStimulusIsAccepted : Obligations.EveryStimulusIsAccepted := by
  refine ⟨fun s hs => ?_, fun k s => safeRun_of_phaseInv k⟩
  obtain ⟨t, ht⟩ := step_completes hs
  exact ⟨t, ht, phaseInv_step hs ht⟩

end Sys2Proof.Machine
end

section
/-! SUPPORT. The capture unit (41_capture.md): its three operations as equations, one per case, the reading of R105, `CaptureInv` over a step, and
the steps on event words with nothing on the wire, the run of ticks of R110 among them. -/

namespace Sys2Proof.Machine

/-! ### The operations -/

/-- Which strobe selects which event operation (30_encoding.md R70, R71). -/
theorem mem_decodeEvents_iff {w : StimWord} {i : Instr} :
    i ∈ decodeEvents w ↔
      (w.tick = true ∧ i = .tick) ∨ (w.fedge = true ∧ i = .fedge) ∨ (w.mstick = true ∧ i = .mstick) ∨ (w.bedge = true ∧ i = .bedge) := by
  have hstrobe (b : Bool) (j : Instr) : (i ∈ if b then [j] else []) ↔ b = true ∧ i = j := by cases b <;> simp
  simp only [decodeEvents, List.mem_append, hstrobe, or_assoc]

theorem exec_ovf (s : State) :
    exec .ovf s = .next { s with armed := false, cntRun := false, diagTrace := s.diagTrace ++ [2#2] } :=
  congrArg Host.Outcome.next (overflow_eq s)

section
variable {s : State}

theorem exec_tick_stopped (hrun : s.cntRun = false) : exec .tick s = .next s := by simp [exec, execTick, hrun]

theorem exec_tick_below (hrun : s.cntRun = true) (hcnt : s.cnt ≠ 0xFFFFFFFF#32) :
    exec .tick s = .next { s with cnt := s.cnt + 1#32 } := by simp [exec, execTick, hrun, hcnt]

/-- A tick that wraps the counter clears it and performs `OVF` (41_capture.md R101). -/
theorem exec_tick_wraps (hrun : s.cntRun = true) (hcnt : s.cnt = 0xFFFFFFFF#32) :
    exec .tick s = exec .ovf { s with cnt := 0#32 } := by simp [exec, execTick, execOvf, hrun, hcnt]

theorem exec_tick_overflow (hrun : s.cntRun = true) (hcnt : s.cnt = 0xFFFFFFFF#32) :
    exec .tick s = .next { s with cnt := 0#32, armed := false, cntRun := false, diagTrace := s.diagTrace ++ [2#2] } := by
  rw [exec_tick_wraps hrun hcnt, exec_ovf]

theorem exec_fedge_latched (hmask : s.edgeMask = true) (hp : s.params.maskedEdge = .latch) :
    exec .fedge s = .next { s with edgePend := true } := by simp [exec, execFedge, hmask, hp]

theorem exec_fedge_dropped (hmask : s.edgeMask = true) (hp : s.params.maskedEdge = .drop) : exec .fedge s = .next s := by
  simp [exec, execFedge, hmask, hp]

theorem exec_fedge_unmasked (hmask : s.edgeMask = false) : exec .fedge s = .next (capEdge s) := by simp [exec, execFedge, hmask]

theorem capEdge_idle (ha : s.armed = false) :
    capEdge s = { s with cnt := 0#32, startTicks := 0#32, cntRun := true, armed := true } := by
  rw [capEdge, ha]
  exact armingEdge_eq s

theorem exec_fedge_arms (hmask : s.edgeMask = false) (ha : s.armed = false) :
    exec .fedge s = .next { s with cnt := 0#32, startTicks := 0#32, cntRun := true, armed := true } := by
  rw [exec_fedge_unmasked hmask, capEdge_idle ha]

theorem capEdge_armed (ha : s.armed = true) : capEdge s = closingEdge s := by rw [capEdge, if_pos ha]

end

/-! ### The reading (R105) -/

/-- No reduction modulo 2^32 is needed, by the bound on `F_TICK` (00_scope.md R5). -/
theorem frequencyReading_toNat (f : TickRate) (t : BitVec 32) : (frequencyReading f t).toNat = f.hertz / t.toNat + 1 := by
  have hlt : f.hertz / t.toNat + 1 < 2 ^ 32 :=
    calc f.hertz / t.toNat + 1 ≤ f.hertz + 1 := Nat.succ_le_succ (Nat.div_le_self _ _)
      _ < 2 ^ 32 := Nat.lt_of_le_of_lt (Nat.succ_le_succ f.fits) (by decide)
  rw [frequencyReading, BitVec.toNat_ofNat, Nat.mod_eq_of_lt hlt]

theorem frequencyReading_eq_mod (f : TickRate) (t : BitVec 32) :
    frequencyReading f t = BitVec.ofNat 32 ((f.hertz / t.toNat + 1) % 2 ^ 32) :=
  BitVec.eq_of_toNat_eq (by simp [frequencyReading])

/-- Settles O12: the exact value of `frequencyReading_toNat`, and the bounds of the quotient. -/
theorem frequencyReadingIsExact : Obligations.FrequencyReadingIsExact := by
  intro f t _
  have hexact := frequencyReading_toNat f t
  refine ⟨hexact, hexact ▸ Nat.succ_pos _, hexact ▸ Nat.succ_le_succ (Nat.div_le_self _ _), ?_, fun hlt => BitVec.eq_of_toNat_eq ?_⟩
  · rintro rfl
    simpa using hexact
  · rw [hexact, Nat.div_eq_of_lt hlt]
    rfl

/-! ### The statements of one operation -/

/-- Settles O9: the strobe, and the three cases of the tick. -/
theorem tickAdvancesOrOverflows : Obligations.TickAdvancesOrOverflows :=
  ⟨fun w => by simp [mem_decodeEvents_iff, StimWord.tick],
    fun _ => ⟨exec_tick_stopped, exec_tick_below, fun hrun hcnt => ⟨exec_tick_wraps hrun hcnt, exec_tick_overflow hrun hcnt⟩⟩⟩

/-- Settles O10: the equation of `OVF`, and the tick that performs it. -/
theorem overflowForcesIdle : Obligations.OverflowForcesIdle := ⟨rfl, exec_ovf, fun _ => exec_tick_wraps⟩

/-- Settles O11: the strobe, the two masked cases, and the three cases of an unmasked edge. -/
theorem fedgeArmsClosesOrIsMasked : Obligations.FedgeArmsClosesOrIsMasked := by
  refine ⟨fun w => by simp [mem_decodeEvents_iff, StimWord.fedge], fun s =>
    ⟨exec_fedge_latched, exec_fedge_dropped, exec_fedge_arms, fun hm ha ht => ?_, fun hm ha ht => ?_⟩⟩
  · rw [exec_fedge_unmasked hm, capEdge_armed ha, closingEdge_zero ht]
  · rw [exec_fedge_unmasked hm, capEdge_armed ha, closingEdge_reading ht, frequencyReading_eq_mod]
    rfl

/-! ### The invariant of the session's flags (R108) -/

/-- `CaptureInv` speaks of three registers. -/
theorem CaptureInv.of_same {s t : State} (hs : CaptureInv s) (ha : t.armed = s.armed) (hrun : t.cntRun = s.cntRun)
    (hst : t.startTicks = s.startTicks) : CaptureInv t := by
  rwa [CaptureInv, ha, hrun, hst]

theorem CaptureInv.capEdge {s : State} (hs : CaptureInv s) : CaptureInv (capEdge s) := by
  obtain ⟨-, hst⟩ := hs
  rcases capEdge_cases s with ⟨-, h⟩ | ⟨-, -, h⟩ | ⟨-, -, h⟩ <;> rw [h]
  · exact ⟨rfl, rfl⟩
  · exact ⟨rfl, hst⟩
  · exact ⟨rfl, hst⟩

theorem captureInv_event {i : Instr} {s t : State} (hi : i = .tick ∨ i = .fedge ∨ i = .mstick ∨ i = .bedge) (hs : CaptureInv s)
    (h : exec i s = .next t) : CaptureInv t := by
  rcases exec_event_cases hi h with ⟨-, ht⟩ | ⟨-, ht⟩ | ⟨-, rfl⟩ | ⟨-, ht⟩
  · rcases ht with ⟨-, rfl⟩ | ⟨-, -, rfl⟩ | ⟨-, -, rfl⟩
    · exact hs
    · exact hs
    · exact ⟨rfl, hs.2⟩
  · rcases ht with ⟨-, -, rfl⟩ | ⟨-, -, rfl⟩ | ⟨-, rfl⟩
    · exact hs
    · exact hs
    · exact hs.capEdge
  · exact hs
  · rcases ht with ⟨-, rfl⟩ | ⟨-, rfl⟩ <;> exact hs

/-- Of the foreground only `PH_UNMASK` reaches the session, by the pending edge (44_sampling.md R173). -/
theorem captureInv_foreground {i : Instr} {s t : State} (hi : Instr.context i = .foreground) (hs : CaptureInv s)
    (h : exec i s = .next t) : CaptureInv t := by
  by_cases hun : i = .phUnmask
  · subst hun
    rcases exec_phUnmask_cases h with rfl | rfl
    · exact CaptureInv.capEdge (s := { s with edgeMask := false, edgePend := false }) hs
    · exact hs
  · obtain ⟨ha, -, hrun, hst, -⟩ := leavesEventSide_foreground hi hun h
    exact hs.of_same ha hrun hst

/-- Settles O13: every part of a step keeps the invariant, and a reset meets it. -/
theorem captureFlagsAgree : Obligations.CaptureFlagsAgree := by
  intro s t hs h
  refine step_keeps (P := CaptureInv) (fun u hu => ?_) (fun _ _ => ⟨rfl, rfl⟩) (fun _ _ _ => captureInv_event)
    (fun _ _ _ _ hi => captureInv_foreground (decodeForeground_context hi)) (fun u hu => ?_) hs h
  · obtain ⟨ins, n, hin⟩ := afterInput_frame u
    rwa [hin]
  · obtain ⟨d, wire, hdev⟩ := devicePart_frame u
    rwa [hdev]

/-! ### Steps on event words, with nothing on the wire -/

/-- Without `FG` and with nothing for the display to read, the events are all of a step. -/
theorem globalStep_events {w : StimWord} {s : State} (hfg : w.fg = false) (hwire : s.wire = []) : globalStep w s = eventPart w s := by
  have hevent (i : Instr) (hi : i ∈ decodeEvents w) : Instr.context i = .event := context_of_event (mem_decodeEvents hi)
  obtain ⟨t, ht, -⟩ := execAll_events_complete hevent s
  have htwire : t.wire = [] := by
    refine execAll_keeps (P := fun u => u.wire = []) (fun i hi u v hu hx => ?_) hwire ht
    obtain ⟨⟨hv, -⟩, -⟩ := (leavesOtherSide_event (hevent i hi) hx).leavesDisplay
    exact hv.trans hu
  rw [globalStep, eventPart, ht, andThen_next, foregroundPart_without_fg hfg, andThen_next, devicePart_empty htwire]

/-- A step on a listed word without `FG`, with nothing on the wire, performs the operations its strobes select. -/
theorem step_events {s : State} {w : StimWord} {rest : List Input} {is : List Instr} (hin : s.inputs = .stim w :: rest)
    (hwire : s.wire = []) (hfg : w.fg = false) (hw : decode (.strobes w) = .ok is) : step s = execAll is { s with inputs := rest } := by
  rw [step_listed hin, inputStep, globalStep_events (s := { s with inputs := rest }) hfg hwire, eventPart_of_decode hw]

/-- Settles O15: the tick with its overflow first, then the edge, which finds an Idle session. -/
theorem overflowBeforeSecondEdge : Obligations.OverflowBeforeSecondEdge := by
  intro s rest hin hwire hrun hcnt
  have htick := exec_tick_overflow (s := { s with inputs := rest }) hrun hcnt
  rw [step_events (is := [.tick, .fedge]) hin hwire rfl rfl, execAll_cons, htick, andThen_next, execAll_cons, funext execAll_nil, andThen_pure]
  exact ⟨fun hm => exec_fedge_arms hm rfl, fun hm hp => exec_fedge_latched hm hp⟩

/-! ### Runs of ticks (R110) -/

/-- `n` words `TICK` next, then the inputs of the state. -/
def withTicks (n : Nat) (s : State) : State := withInputs (List.replicate n (.stim 0x00001#19)) s

theorem step_withTicks (n : Nat) {s : State} (hwire : s.wire = []) : step (withTicks (n + 1) s) = exec .tick (withTicks n s) := by
  rw [step_events (s := withTicks (n + 1) s) (is := [.tick]) rfl hwire rfl rfl, execAll_cons, funext execAll_nil, andThen_pure]
  rfl

/-- One tick of a run: where it takes `s` to `t`, the rest of the run starts at `t`. -/
theorem run_withTicks_succ {n : Nat} {s t : State} (hwire : s.wire = []) (h : exec .tick (withTicks n s) = .next (withTicks n t)) :
    run (n + 1) (withTicks (n + 1) s) = run n (withTicks n t) := by
  rw [run_succ, step_withTicks n hwire, h, andThen_next]

theorem run_ticks_stopped (n : Nat) {s : State} (hwire : s.wire = []) (hrun : s.cntRun = false) : run n (withTicks n s) = .next s := by
  induction n with
  | zero => rfl
  | succ n ih => rw [run_withTicks_succ hwire (exec_tick_stopped (s := withTicks n s) hrun), ih]

/-- A tick below the wrap moves a run on by one. -/
theorem run_ticks_succ {n : Nat} {s : State} (hwire : s.wire = []) (hrun : s.cntRun = true) (hcnt : s.cnt ≠ 0xFFFFFFFF#32) :
    run (n + 1) (withTicks (n + 1) s) = run n (withTicks n { s with cnt := s.cnt + 1#32 }) :=
  run_withTicks_succ hwire (exec_tick_below (s := withTicks n s) hrun hcnt)

theorem run_ticks_below {n : Nat} {s : State} (hwire : s.wire = []) (hrun : s.cntRun = true) (hn : s.cnt.toNat + n ≤ 0xFFFFFFFF) :
    run n (withTicks n s) = .next { s with cnt := s.cnt + BitVec.ofNat 32 n } := by
  induction n generalizing s with
  | zero => simp [withTicks, withInputs]
  | succ n ih =>
    have hcnt : s.cnt ≠ 0xFFFFFFFF#32 := by bv_omega
    have hnext : (s.cnt + 1#32).toNat + n ≤ 0xFFFFFFFF := by bv_omega
    rw [run_ticks_succ hwire hrun hcnt, ih (s := { s with cnt := s.cnt + 1#32 }) hwire hrun hnext]
    simp only [BitVec.ofNat_add, BitVec.add_assoc, BitVec.add_comm 1#32]

/-- The ticks after the one that wraps find the counter stopped. -/
theorem run_ticks_overflow {n : Nat} {s : State} (hwire : s.wire = []) (hrun : s.cntRun = true) (hn : 0xFFFFFFFF < s.cnt.toNat + n) :
    run n (withTicks n s) =
      .next { s with cnt := 0#32, armed := false, cntRun := false, diagTrace := s.diagTrace ++ [2#2] } := by
  induction n generalizing s with
  | zero => exact absurd hn (by bv_omega)
  | succ n ih =>
    by_cases hcnt : s.cnt = 0xFFFFFFFF#32
    · refine (run_withTicks_succ hwire ?_).trans (run_ticks_stopped n hwire rfl)
      exact exec_tick_overflow (s := withTicks n s) hrun hcnt
    · have hnext : 0xFFFFFFFF < (s.cnt + 1#32).toNat + n := by bv_omega
      exact (run_ticks_succ hwire hrun hcnt).trans (ih hwire hrun hnext)

/-- Settles O14: the stopped counter, the run below the wrap and the run over it, each by induction on the number of ticks. -/
theorem tickRunClosedForm : Obligations.TickRunClosedForm := by
  intro n s hwire
  split_ifs with hrun hn
  · exact run_ticks_stopped n hwire hrun
  · exact run_ticks_below hwire (eq_true_of_ne_false hrun) hn
  · exact run_ticks_overflow hwire (eq_true_of_ne_false hrun) (Nat.lt_of_not_le hn)

end Sys2Proof.Machine
end

section
/-! SUPPORT. The debounce unit (42_debounce.md): its two operations as equations, one per case, and the one accepted edge a step can have. -/

namespace Sys2Proof.Machine

/-! ### The operations -/

theorem exec_mstick (s : State) : exec .mstick s = .next { s with ms := s.ms + 1#16 } := rfl

section
variable {s : State}

theorem exec_bedge_accepted (h : 50 ≤ (s.ms - s.lastAcc).toNat) :
    exec .bedge s = .next { s with lastAcc := s.ms, btnTrace := s.btnTrace ++ [s.ms] } := by
  have hacc : debounceAccepts s.ms s.lastAcc = true := decide_eq_true h
  simp [exec, execBedge, hacc, emitButton]

theorem exec_bedge_rejected (h : (s.ms - s.lastAcc).toNat < 50) : exec .bedge s = .next s := by
  have hrej : debounceAccepts s.ms s.lastAcc = false := decide_eq_false (Nat.not_le.mpr h)
  simp [exec, execBedge, hrej]

end

/-- Settles O18: the strobe, and the sum of 16 bits read as a number. -/
theorem mstickCountsModulo : Obligations.MstickCountsModulo := by
  refine ⟨fun w => by simp [mem_decodeEvents_iff, StimWord.mstick], fun s => ?_, fun s hms => ?_⟩
  · have hsum : BitVec.ofNat 16 ((s.ms.toNat + 1) % 2 ^ 16) = s.ms + 1#16 := BitVec.eq_of_toNat_eq (by simp)
    rw [exec_mstick, hsum]
  · rw [exec_mstick, hms]
    rfl

/-- Settles O19: the strobe, and the two cases of the edge. -/
theorem bedgeAcceptsFromFiftyTicks : Obligations.BedgeAcceptsFromFiftyTicks :=
  ⟨fun w => by simp [mem_decodeEvents_iff, StimWord.bedge], fun _ => ⟨exec_bedge_accepted, exec_bedge_rejected⟩⟩

/-- Settles O20: the word performs the tick, then the edge on the counter it left. -/
theorem buttonEdgeStampedAfterTick : Obligations.ButtonEdgeStampedAfterTick := by
  intro s rest hin hwire
  rw [step_events (is := [.mstick, .bedge]) hin hwire rfl rfl, execAll_cons, exec_mstick, andThen_next, execAll_cons,
    funext execAll_nil, andThen_pure]
  split_ifs with h
  · exact exec_bedge_accepted (s := { s with inputs := rest, ms := s.ms + 1#16 }) h
  · exact exec_bedge_rejected (s := { s with inputs := rest, ms := s.ms + 1#16 }) (Nat.lt_of_not_le h)

/-! ### What a step accepts (R121, R122) -/

/-- From `s` to `t` no button edge is accepted. -/
def AcceptsNone (s t : State) : Prop := t.btnTrace = s.btnTrace ∧ t.lastAcc = s.lastAcc

/-- From `s` to `t` at most one button edge is accepted, stamped with the counter of `t`, at a distance of at least 50. -/
def AcceptsAtMostOne (s t : State) : Prop :=
  AcceptsNone s t ∨ (t.btnTrace = s.btnTrace ++ [t.ms] ∧ t.lastAcc = t.ms ∧ 50 ≤ (t.ms - s.lastAcc).toNat)

theorem AcceptsNone.refl (s : State) : AcceptsNone s s := ⟨rfl, rfl⟩

theorem AcceptsNone.trans {s t u : State} (h : AcceptsNone s t) (h' : AcceptsNone t u) : AcceptsNone s u := by
  obtain ⟨htrace, hlast⟩ := h
  obtain ⟨htrace', hlast'⟩ := h'
  exact ⟨htrace'.trans htrace, hlast'.trans hlast⟩

/-- The edge judged after a part that accepted none is judged by the `LAST_ACC` before that part. -/
theorem AcceptsNone.followedBy {s t u : State} (h : AcceptsNone s t) (h' : AcceptsAtMostOne t u) : AcceptsAtMostOne s u := by
  obtain ⟨htrace, hlast⟩ := h
  simpa only [AcceptsAtMostOne, AcceptsNone, htrace, hlast] using h'

/-- What accepts none and leaves `MS` leaves the stamp of an edge accepted before it. -/
theorem AcceptsAtMostOne.of_same {s t u : State} (h : AcceptsAtMostOne s t) (h' : AcceptsNone t u) (hms : u.ms = t.ms) :
    AcceptsAtMostOne s u := by
  obtain ⟨htrace, hlast⟩ := h'
  simpa only [AcceptsAtMostOne, AcceptsNone, htrace, hlast, hms] using h

theorem acceptsAtMostOne_bedge {s t : State} (h : exec .bedge s = .next t) : AcceptsAtMostOne s t := by
  rcases Nat.lt_or_ge (s.ms - s.lastAcc).toNat 50 with hd | hd
  · cases (exec_bedge_rejected hd).symm.trans h
    exact .inl (.refl _)
  · cases (exec_bedge_accepted hd).symm.trans h
    exact .inr ⟨rfl, rfl, hd⟩

/-- A qualifying edge writes the capture registers and may report: nothing of the debounce unit's (41_capture.md R102, R103). -/
theorem acceptsNone_capEdge (s : State) : AcceptsNone s (capEdge s) := by
  rcases capEdge_cases s with ⟨-, h⟩ | ⟨-, -, h⟩ | ⟨-, -, h⟩ <;> simp [h, AcceptsNone]

/-- Of the events only `BEDGE` accepts an edge. -/
theorem acceptsNone_event {i : Instr} {s t : State} (hi : i = .tick ∨ i = .fedge ∨ i = .mstick) (h : exec i s = .next t) :
    AcceptsNone s t := by
  have hev : i = .tick ∨ i = .fedge ∨ i = .mstick ∨ i = .bedge := hi.imp_right (·.imp_right .inl)
  rcases exec_event_cases hev h with ⟨-, ht⟩ | ⟨-, ht⟩ | ⟨-, rfl⟩ | ⟨rfl, -⟩
  · rcases ht with ⟨-, rfl⟩ | ⟨-, -, rfl⟩ | ⟨-, -, rfl⟩ <;> exact ⟨rfl, rfl⟩
  · rcases ht with ⟨-, -, rfl⟩ | ⟨-, -, rfl⟩ | ⟨-, rfl⟩
    · exact ⟨rfl, rfl⟩
    · exact .refl _
    · exact acceptsNone_capEdge s
  · exact ⟨rfl, rfl⟩
  · simp at hi

/-- The one `BEDGE` of a step is performed last of its events (30_encoding.md R71). -/
theorem decodeEvents_bedge_last (w : StimWord) :
    ∃ is, decodeEvents w = is ++ (if w.bedge then [.bedge] else []) ∧ ∀ i ∈ is, i = .tick ∨ i = .fedge ∨ i = .mstick := by
  refine ⟨_, rfl, fun i hi => ?_⟩
  simp only [List.mem_append] at hi
  rcases hi with (hi | hi) | hi <;> split at hi <;> simp at hi <;> simp [hi]

theorem acceptsAtMostOne_eventPart {w : StimWord} {s t : State} (h : eventPart w s = .next t) : AcceptsAtMostOne s t := by
  obtain ⟨is, hw, his⟩ := decodeEvents_bedge_last w
  rw [eventPart, hw, execAll_append, execAll_strobe] at h
  obtain ⟨u, hbefore, hlast⟩ := andThen_eq_next h
  have hu : AcceptsNone s u :=
    execAll_keeps (P := AcceptsNone s) (fun i hi _ _ hP hx => hP.trans (acceptsNone_event (his i hi) hx)) (.refl s) hbefore
  refine hu.followedBy ?_
  split at hlast
  · exact acceptsAtMostOne_bedge hlast
  · cases hlast
    exact .inl (.refl _)

/-- No foreground operation reaches the debounce unit, the pending edge of `PH_UNMASK` neither (10_state.md R47). -/
theorem acceptsNone_foreground {i : Instr} {s t : State} (hi : Instr.context i = .foreground) (h : exec i s = .next t) :
    AcceptsNone s t ∧ t.ms = s.ms := by
  by_cases hun : i = .phUnmask
  · subst hun
    obtain ⟨-, hunmask⟩ := foregroundStaysOnItsSide
    obtain ⟨hms, hlast, htrace, -⟩ := hunmask s t h
    exact ⟨⟨htrace, hlast⟩, hms⟩
  · obtain ⟨-, -, -, -, -, hms, hlast, -, htrace, -⟩ := leavesEventSide_foreground hi hun h
    exact ⟨⟨htrace, hlast⟩, hms⟩

theorem acceptsAtMostOne_globalStep {w : StimWord} {s t : State} (h : globalStep w s = .next t) : AcceptsAtMostOne s t := by
  obtain ⟨e, f, he, hf, rfl⟩ := globalStep_next h
  have hPf : AcceptsAtMostOne s f := by
    rcases foregroundPart_cases hf with ⟨-, rfl⟩ | ⟨-, i, hi, hx⟩
    · exact acceptsAtMostOne_eventPart he
    · obtain ⟨hnone, hms⟩ := acceptsNone_foreground (decodeForeground_context hi) hx
      exact (acceptsAtMostOne_eventPart he).of_same hnone hms
  obtain ⟨d, wire, hdev⟩ := devicePart_frame f
  rw [hdev]
  exact hPf.of_same ⟨rfl, rfl⟩ rfl

/-- Settles O21: taking the input accepts none, and the global step at most the edge of its one `BEDGE`. -/
theorem acceptedEdgesAreFiftyApart : Obligations.AcceptedEdgesAreFiftyApart := by
  intro s t hw h
  obtain ⟨w, hstep⟩ := step_takesStimulus hw
  obtain ⟨ins, n, hin⟩ := afterInput_frame s
  rw [hstep, hin] at h
  exact AcceptsNone.followedBy (t := { s with inputs := ins, envStep := n }) ⟨rfl, rfl⟩ (acceptsAtMostOne_globalStep h)

end Sys2Proof.Machine
end

section
/-! SUPPORT. The bus over a step (43_display.md R147): what `BusInv` says of the frames sent and queued at a phase, and that a step moves them
along the phases. -/

namespace Sys2Proof.Machine

/-- The clear is queued, and whole refreshes after it. -/
def WholeRefreshes (p : Params) (frames : List Frame) : Prop := ∃ shown, frames = framesOf p shown

/-- A refresh is begun: its resistance line is queued, its frequency line is not. -/
def BegunRefresh (p : Params) (frames : List Frame) : Prop :=
  ∃ shown ohms, frames = framesOf p shown ++ textFrames p p.pageR textCol0 (lineR ohms)

/-- What `BusInv` says of the frames sent and queued at a phase. -/
def FramesFit (p : Params) (phase : PhaseCode) (frames : List Frame) : Prop :=
  if phase = phInitCode then frames = []
  else if phase = phClearCode then frames = initFrames p
  else if phase = phRenderFCode then BegunRefresh p frames
  else if phase = phStalledCode then frames = initFrames p ∨ WholeRefreshes p frames ∨ BegunRefresh p frames
  else WholeRefreshes p frames

theorem busInv_iff (s : State) : BusInv s ↔ FramesFit s.params s.phase (s.busTrace ++ s.txq) := Iff.rfl

theorem wholeRefreshes_clear (p : Params) : WholeRefreshes p (initFrames p ++ clearFrames p) := ⟨[], (List.append_nil _).symm⟩

theorem WholeRefreshes.begin {p : Params} {frames : List Frame} (h : WholeRefreshes p frames) (ohms : BitVec 32) :
    BegunRefresh p (frames ++ textFrames p p.pageR textCol0 (lineR ohms)) := by
  obtain ⟨shown, rfl⟩ := h
  exact ⟨shown, ohms, rfl⟩

theorem BegunRefresh.complete {p : Params} {frames : List Frame} (h : BegunRefresh p frames) (hz : BitVec 32) :
    WholeRefreshes p (frames ++ textFrames p p.pageF textCol0 (lineF hz)) := by
  obtain ⟨shown, ohms, rfl⟩ := h
  exact ⟨shown ++ [(ohms, hz)], by simp [framesOf, refreshFrames]⟩

/-- A sequencer that stops, from any phase but the first, leaves the frames where its position had brought them. -/
theorem FramesFit.stalled {p : Params} {phase : PhaseCode} {frames : List Frame} (h : FramesFit p phase frames)
    (h0 : phase ≠ phInitCode) : FramesFit p phStalledCode frames := by
  change frames = initFrames p ∨ WholeRefreshes p frames ∨ BegunRefresh p frames
  unfold FramesFit at h
  rw [if_neg h0] at h
  split_ifs at h
  · exact .inl h
  · exact .inr (.inr h)
  · exact h
  · exact .inr (.inl h)

theorem BusInv.of_framesFit {s t : State} (hparams : t.params = s.params) (h : FramesFit s.params t.phase (t.busTrace ++ t.txq)) :
    BusInv t := by
  rwa [busInv_iff, hparams]

/-- What leaves the phase, the parameters and the row of frames sent and queued keeps the invariant. -/
theorem BusInv.of_same {s t : State} (hs : BusInv s) (hparams : t.params = s.params) (hphase : t.phase = s.phase)
    (hframes : t.busTrace ++ t.txq = s.busTrace ++ s.txq) : BusInv t :=
  .of_framesFit hparams (by rwa [hphase, hframes])

/-- Before `PH_INIT` nothing is queued, so no poll is made there. -/
theorem busInv_pollFailed {s : State} (hs : BusInv s) (h0 : s.phase ≠ phInitCode) : BusInv (pollFailed s) := by
  obtain ⟨⟨-, -, hbus, hparams⟩, htxq, hphase | hphase⟩ := leavesDisplay_pollFailed s
  · exact hs.of_same hparams hphase (by rw [hbus, htxq])
  · exact .of_framesFit hparams (by rw [hphase, hbus, htxq]; exact FramesFit.stalled hs h0)

/-- A phase at which the start-up is queued and no refresh is begun. -/
def betweenRefreshes (phase : PhaseCode) : Bool :=
  decide (phase ≠ phInitCode ∧ phase ≠ phClearCode ∧ phase ≠ phRenderFCode ∧ phase ≠ phStalledCode)

theorem framesFit_betweenRefreshes {p : Params} {phase : PhaseCode} {frames : List Frame} (h : betweenRefreshes phase = true) :
    FramesFit p phase frames ↔ WholeRefreshes p frames := by
  obtain ⟨h0, h1, h8, h12⟩ := of_decide_eq_true h
  rw [FramesFit, if_neg h0, if_neg h1, if_neg h8, if_neg h12]

/-- Between two phases without a begun refresh `PHASE` moves freely where no frame is queued or lost. -/
theorem BusInv.of_betweenRefreshes {s t : State} (hs : BusInv s) (hsp : betweenRefreshes s.phase = true)
    (htp : betweenRefreshes t.phase = true) (hparams : t.params = s.params) (hframes : t.busTrace ++ t.txq = s.busTrace ++ s.txq) : BusInv t :=
  .of_framesFit hparams (by rw [hframes]; exact (framesFit_betweenRefreshes htp).mpr ((framesFit_betweenRefreshes hsp).mp hs))

theorem busInv_foreground {w : StimWord} {i : Instr} {s t : State} (hi : decodeForeground s.phase (!s.txq.isEmpty) w = .ok i)
    (hs : BusInv s) (h : exec i s = .next t) : BusInv t := by
  rcases exec_foreground_cases hi h with ⟨-, -, rfl⟩ | ⟨-, -, f, rest, hq, rfl | rfl⟩ | ⟨hq, hphase⟩
  · exact hs
  · exact hs.of_same rfl rfl (by simp [hq])
  · refine busInv_pollFailed hs fun h0 => ?_
    have hnone : s.busTrace ++ s.txq = [] := by simpa [busInv_iff, FramesFit, h0] using hs
    simp [hq] at hnone
  have hfit : FramesFit s.params s.phase s.busTrace := by simpa [busInv_iff, hq] using hs
  have hmove {u : State} (hsp : betweenRefreshes s.phase = true) : betweenRefreshes u.phase = true → u.params = s.params →
      u.busTrace ++ u.txq = s.busTrace ++ s.txq → BusInv u := hs.of_betweenRefreshes hsp
  rcases hphase with ⟨-, hp, rfl⟩ | ⟨-, hp, rfl⟩ | ⟨-, hp, rfl⟩ | ⟨-, hp, rfl | rfl⟩ | ⟨-, hp, rfl⟩ | ⟨-, hp, rfl⟩ | ⟨-, hp, rfl⟩ |
    ⟨-, hp, rfl⟩ | ⟨-, hp, rfl⟩ | ⟨-, hp, ⟨-, rfl⟩ | ⟨-, rfl⟩⟩ | ⟨-, hp, rfl⟩ | ⟨-, hp, rfl | rfl⟩ <;> rw [hp] at hfit
  · have hnone : s.busTrace = [] := hfit
    exact .of_framesFit rfl (congrArg (· ++ initFrames s.params) hnone)
  · have hinit : s.busTrace = initFrames s.params := hfit
    exact .of_framesFit (t := { s with txq := clearFrames s.params, phase := 2#4 }) rfl (hinit ▸ wholeRefreshes_clear s.params)
  · exact hmove (hp ▸ rfl) rfl rfl rfl
  · exact hmove (hp ▸ rfl) rfl rfl rfl
  · exact busInv_pollFailed hs (hp ▸ by decide)
  · exact hmove (hp ▸ rfl) rfl rfl rfl
  · exact hmove (hp ▸ rfl) rfl rfl rfl
  · exact hmove (hp ▸ rfl) rfl rfl rfl
  · exact .of_framesFit rfl (WholeRefreshes.begin hfit s.ohms)
  · exact .of_framesFit rfl (BegunRefresh.complete hfit s.hz)
  · obtain ⟨⟨-, -, hbus, hparams⟩, -, htxq⟩ := (leavesOtherSide_capEdge { s with edgeMask := false, edgePend := false }).leavesDisplay
    exact hmove (hp ▸ rfl) rfl hparams (congrArg₂ (· ++ ·) hbus htxq)
  · exact hmove (hp ▸ rfl) rfl rfl rfl
  · exact hmove (hp ▸ rfl) rfl rfl rfl
  · exact hmove (hp ▸ rfl) rfl rfl rfl
  · exact hs

/-- Settles O57: the input, the events and the display's turn leave the frames and the phase, the foreground moves them along. -/
theorem busKeepsItsShape : Obligations.BusKeepsItsShape := by
  intro s t
  refine step_keeps (P := BusInv) (fun u hu => ?_) (fun _ _ => rfl) (fun i u v hi hu hx => ?_) (fun _ _ _ _ => busInv_foreground)
    fun u hu => ?_
  · obtain ⟨ins, n, hin⟩ := afterInput_frame u
    rwa [hin]
  · obtain ⟨⟨-, -, hbus, hparams⟩, hphase, htxq⟩ := (leavesOtherSide_event (context_of_event hi) hx).leavesDisplay
    exact hu.of_same hparams hphase (by rw [hbus, htxq])
  · obtain ⟨d, wire, hdev⟩ := devicePart_frame u
    rwa [hdev]

end Sys2Proof.Machine
end

section
/-! SUPPORT. The driver's frame lists (43_display.md R130 to R143): a cursor position read back, the characters a line draws, the lengths of the
lists, and the expansion of a driver operation. -/

namespace Sys2Proof.Machine

/-! ### The frames of a cursor position (R135, R136) -/

theorem cmdFrame_pageSel (q : Page) : cmdFrame (0b10110#5 ++ q) = 0x0B0#9 ||| q.setWidth 9 := by revert q; decide

theorem cmdFrame_colLo (n : BitVec 4) : cmdFrame (0b0000#4 ++ n) = 0x000#9 ||| n.setWidth 9 := by revert n; decide

theorem cmdFrame_colHi (n : BitVec 4) : cmdFrame (0b0001#4 ++ n) = 0x010#9 ||| n.setWidth 9 := by revert n; decide

theorem decodeFrame_setPage (page : Byte) : decodeFrame true (cmdFrame (pageCommand page)) = .ok (.pageSel (page.extractLsb' 0 3)) := by
  obtain ⟨hmatch, hpage⟩ := pageSel_frame (page.extractLsb' 0 3)
  rw [pageCommand_eq, cmdFrame_pageSel, decodeFrame_pageSel hmatch, hpage]

theorem decodeFrame_setColLo (t : Byte) : decodeFrame true (cmdFrame (colLoCommand t)) = .ok (.colLo (t.extractLsb' 0 4)) := by
  obtain ⟨hmatch, hnibble⟩ := colLo_frame (t.extractLsb' 0 4)
  rw [colLoCommand_eq, cmdFrame_colLo, decodeFrame_colLo hmatch, hnibble]

theorem decodeFrame_setColHi (t : Byte) : decodeFrame true (cmdFrame (colHiCommand t)) = .ok (.colHi (t.extractLsb' 4 4)) := by
  obtain ⟨hmatch, hnibble⟩ := colHi_frame (t.extractLsb' 4 4)
  rw [colHiCommand_eq, cmdFrame_colHi, decodeFrame_colHi hmatch, hnibble]

theorem extractLsb'_page (page : Byte) : page.extractLsb' 0 3 = BitVec.ofNat 3 (page.toNat % 8) :=
  BitVec.eq_of_toNat_eq (by simp)

/-- Settles O29: the page and the two nibbles of the device column, each as the residue or the quotient that the statement names. -/
theorem cursorFramesReadBack : Obligations.CursorFramesReadBack := by
  intro p page x
  have ht : (deviceColumn p x).toNat = (x.toNat + p.colOrigin.toNat) % 256 := by simp [deviceColumn]
  have hlo : (deviceColumn p x).extractLsb' 0 4 = BitVec.ofNat 4 ((x.toNat + p.colOrigin.toNat) % 256 % 16) :=
    BitVec.eq_of_toNat_eq (by simp [ht])
  have hhi : (deviceColumn p x).extractLsb' 4 4 = BitVec.ofNat 4 ((x.toNat + p.colOrigin.toNat) % 256 / 16) :=
    BitVec.eq_of_toNat_eq (by simp [ht, Nat.shiftRight_eq_div_pow])
  rw [← hlo, ← hhi, ← extractLsb'_page, ← decodeFrame_setPage, ← decodeFrame_setColLo, ← decodeFrame_setColHi]
  rfl

/-! ### The characters of a line (R142, R143) -/

theorem drawnFrom_succ {col : Nat} (h : col ≤ lastStartCol) : drawnFrom col = drawnFrom (col + glyphW) + 1 := by
  simp only [drawnFrom, lastStartCol, glyphW] at *
  split_ifs <;> omega

theorem drawnFrom_clipped {col : Nat} (h : lastStartCol < col) : drawnFrom col = 0 := if_neg (Nat.not_le.mpr h)

/-- The rest of a line, from its `n`-th character on. -/
theorem textFrames_eq (p : Params) (page : Byte) (x n : Nat) (s : List CharCode) :
    textFrames p page (x + 8 * n) s =
      ((s.take (drawnFrom (x + 8 * n))).zipIdx n).flatMap fun ck => glyphFrames p page (BitVec.ofNat 8 (x + 8 * ck.2)) ck.1 := by
  induction s generalizing n with
  | nil => simp
  | cons c cs ih =>
    by_cases hcol : x + 8 * n ≤ lastStartCol
    · rw [textFrames_drawn p page hcol, drawnFrom_succ hcol, List.take_succ_cons, List.zipIdx_cons, List.flatMap_cons]
      exact congrArg _ (ih (n + 1))
    · have hclip := Nat.lt_of_not_le hcol
      rw [textFrames_clipped p page hclip, drawnFrom_clipped hclip]
      rfl

/-- Settles O30: the whole line is its rest from character 0 on. -/
theorem textClipsAtGlyphBoundary : Obligations.TextClipsAtGlyphBoundary := fun p page x s => textFrames_eq p page x 0 s

/-! ### Lengths (R141, 44_sampling.md R169) -/

theorem glyphFrames_length (p : Params) (page x : Byte) (c : CharCode) : (glyphFrames p page x c).length = 11 := by
  simp [glyphFrames]

theorem textFrames_length (p : Params) (page : Byte) (x : Nat) (s : List CharCode) :
    (textFrames p page x s).length = 11 * min s.length (drawnFrom x) := by
  rw [textClipsAtGlyphBoundary]
  simp [List.length_flatMap, glyphFrames_length, Nat.min_comm, Nat.mul_comm]

theorem pad5_length (s : List CharCode) : (pad5 s).length = max 5 s.length := by
  simp only [pad5, List.length_append, List.length_replicate]
  omega

theorem lineR_length (ohms : BitVec 32) : (lineR ohms).length = 8 + max 5 (dec ohms).length := by
  simp only [lineR, List.length_append, pad5_length, List.length_cons, List.length_nil]
  omega

theorem lineF_length (hz : BitVec 32) : (lineF hz).length = 6 + max 5 (dec hz).length := by
  simp only [lineF, List.length_append, pad5_length, List.length_cons, List.length_nil]
  omega

/-- A number below `10 ^ k` has at most `k` digits, whatever the fuel. -/
theorem decDigits_length_le_of_lt {k n : Nat} (hk : 1 ≤ k) (h : n < 10 ^ k) (fuel : Nat) : (decDigits fuel n).length ≤ k := by
  induction fuel generalizing k n with
  | zero => simp [decDigits]
  | succ fuel ih =>
    by_cases hn : n < 10
    · simpa [decDigits_of_lt hn] using hk
    · obtain ⟨k, rfl⟩ := Nat.exists_eq_succ_of_ne_zero (Nat.one_le_iff_ne_zero.mp hk)
      have hk' : k ≠ 0 := by rintro rfl; exact hn h
      have := ih (k := k) (n := n / 10) (by omega) (by omega)
      simpa [decDigits_of_ge (Nat.le_of_not_lt hn)] using this

/-- Settles O31: each list by its construction; the two lines start at column 0, from which 16 characters are drawn. -/
theorem frameCountsOfTheDriver : Obligations.FrameCountsOfTheDriver := by
  intro p
  have h16 : drawnFrom 0 = 16 := rfl
  refine ⟨by simp [initFrames], by simp [clearFrames], glyphFrames_length p, textFrames_length p, fun page ohms => ?_, fun page hz => ?_,
    fun page ohms h => ?_⟩
  · rw [textFrames_length, lineR_length, h16, Nat.min_comm]
  · have hdec : (dec hz).length ≤ 10 := decDigits_length_le 10 _
    rw [textFrames_length, lineF_length, h16]
    omega
  · have hdec : (dec ohms).length ≤ 5 := decDigits_length_le_of_lt (by decide) (by omega) 10
    rw [textFrames_length, lineR_length, h16]
    omega

/-! ### Driver operations called by themselves (30_encoding.md R88) -/

theorem DspOp.expand_refused {p : Params} {op : DspOp} (h : op.wellFormed = false) : op.expand p = .error .operandOutOfRange := by
  simp [DspOp.expand, h]

theorem text_wellFormed_iff {page x : Byte} {s : List Byte} :
    (DspOp.text page x s).wellFormed = true ↔ ∀ c ∈ s, c.toNat < 0x80 := by
  simp [DspOp.wellFormed]

/-- Settles O32: one row per operation, its frames where its operands are in range. -/
theorem driverExpandsOrRefuses : Obligations.DriverExpandsOrRefuses := by
  intro p page x b s
  refine ⟨rfl, rfl, rfl, fun hx => ?_, fun hx => ?_, fun hx hb => ?_, fun h => ?_, fun h => ?_, fun h => ?_, rfl, rfl⟩
  · exact DspOp.expand_ok (op := .setCol x) (decide_eq_true hx)
  · exact DspOp.expand_refused (op := .setCol x) (decide_eq_false (Nat.not_le.mpr hx))
  · rw [DspOp.expand_ok (by simp [DspOp.wellFormed, hx, hb])]
    have hcode : (b.setWidth 7).toNat = b.toNat := (BitVec.toNat_setWidth ..).trans (Nat.mod_eq_of_lt hb)
    simp only [DspOp.frames, glyphFrames, cursorFrames, glyphColumn, hcode]
  · refine DspOp.expand_refused (op := .glyph page x b) (Bool.and_eq_false_iff.mpr ?_)
    exact h.imp (fun hx => decide_eq_false (Nat.not_le.mpr hx)) fun hb => decide_eq_false (Nat.not_lt.mpr hb)
  · rw [DspOp.expand_ok (text_wellFormed_iff.mpr h)]
    exact ⟨rfl, fun hx => congrArg Except.ok (textFrames_clipped p page hx _)⟩
  · refine DspOp.expand_refused (Bool.eq_false_iff.mpr fun hwf => ?_)
    obtain ⟨c, hc, hge⟩ := h
    exact absurd (text_wellFormed_iff.mp hwf c hc) (Nat.not_lt.mpr hge)

end Sys2Proof.Machine
end

section
/-! SUPPORT. One frame on its way out (43_display.md R133, R134): the acts on the pins, the three outcomes of `SEND`, and a ready bus that drains
the queue. -/

namespace Sys2Proof.Machine

theorem shiftOrder_eq (b : Byte) : shiftOrder b = [b[7], b[6], b[5], b[4], b[3], b[2], b[1], b[0]] := rfl

/-- Settles O28: the level and the byte of either frame, the byte's bits in their order, and the idle pins at the end. -/
theorem pinSequenceIsMsbFirst : Obligations.PinSequenceIsMsbFirst := by
  intro dc b s
  refine ⟨?_, drivePins_pinSequence _ s⟩
  have hdc : (if dc then dataFrame b else cmdFrame b).isData = dc := by cases dc <;> simp
  have hbyte : (if dc then dataFrame b else cmdFrame b).byte = b := by cases dc <;> simp
  rw [pinSequence, hdc, hbyte, shiftOrder_eq]
  rfl

section
variable {s : State} {f : Frame} {rest : List Frame}

theorem exec_send_ready (h : s.txq = f :: rest) :
    exec (.send true) s =
      .next { s with
        busTrace := s.busTrace ++ [f], wire := s.wire ++ [f], txq := rest, waitCnt := 0, csN := true, dc := true } := by
  simp [exec, execSend, h, transfer_eq]

theorem exec_send_busy (h : s.txq = f :: rest) : exec (.send false) s = .next (pollFailed s) := by
  simp [exec, execSend, h]

theorem pollFailed_below (h : limitReached s.params.waitLimit (s.waitCnt + 1) = false) :
    pollFailed s = { s with waitCnt := s.waitCnt + 1 } := by
  simp [pollFailed, h]

theorem pollFailed_limit (h : limitReached s.params.waitLimit (s.waitCnt + 1) = true) :
    pollFailed s = { s with waitCnt := s.waitCnt + 1, diagTrace := s.diagTrace ++ [3#2], phase := phStalledCode } := by
  simp only [pollFailed, h, if_true]
  rfl

end

/-- Settles O26: the selection of R73, the three outcomes of `SEND`, and the limit's own definition. -/
theorem sendShiftsHeadOrPolls : Obligations.SendShiftsHeadOrPolls := by
  refine ⟨fun code w h => decodeForeground_queued h w, fun s f rest hq => ⟨exec_send_ready hq, fun hlim => ?_, fun hlim => ?_⟩,
    limitReached_infinity, fun _ _ _ => decide_eq_true_iff⟩
  · rw [exec_send_busy hq, pollFailed_below hlim]
  · rw [exec_send_busy hq, pollFailed_limit hlim]

/-! ### Runs with the bus ready (30_encoding.md R87 `drain`) -/

/-- `n` words `fg bus` next, then the inputs of the state. -/
def withReadySteps (n : Nat) (s : State) : State := withInputs (List.replicate n (.stim 0x00050#19)) s

/-- One ready step with a frame queued sends it; what the display makes of it stays with the display. -/
theorem step_withReadySteps (n : Nat) {s : State} {f : Frame} {rest : List Frame} (hp : s.phase.toNat < 12) (hq : s.txq = f :: rest) :
    ∃ d wire, step (withReadySteps (n + 1) s) =
      .next (withReadySteps n { s with
        busTrace := s.busTrace ++ [f], txq := rest, waitCnt := 0, csN := true, dc := true, dev := d, wire := wire }) := by
  obtain ⟨-, -, hforeground, -⟩ := stepRunsDecodedOperation
  have hi : decodeForeground s.phase (!s.txq.isEmpty) 0x00050#19 = .ok (.send true) := by
    rw [hq]; exact decodeForeground_queued hp _
  have hstep : step (withReadySteps (n + 1) s) = andThen (exec (.send true) (withReadySteps n s)) fun t => .next (devicePart t) :=
    hforeground _ 0x00050#19 _ _ rfl rfl rfl (decode_foreground_iff.mpr hi)
  rw [hstep, exec_send_ready (s := withReadySteps n s) hq, andThen_next]
  exact (devicePart_frame _).imp fun d => Exists.imp fun wire h => congrArg Host.Outcome.next h

/-- As many ready steps as frames are queued change only the driver's registers, the bus and the display. -/
theorem run_withReadySteps {s : State} (hp : s.phase.toNat < 12) :
    ∃ waitCnt csN dc d wire, run s.txq.length (withReadySteps s.txq.length s) =
      .next { s with
        busTrace := s.busTrace ++ s.txq, txq := [], waitCnt := waitCnt, csN := csN, dc := dc, dev := d, wire := wire } := by
  generalize hq : s.txq = fs
  induction fs generalizing s with
  | nil =>
    refine ⟨s.waitCnt, s.csN, s.dc, s.dev, s.wire, ?_⟩
    cases s
    cases hq
    rw [List.append_nil]
    rfl
  | cons f rest ih =>
    obtain ⟨d, wire, hstep⟩ := step_withReadySteps rest.length hp hq
    obtain ⟨waitCnt, csN, dc, d', wire', hrun⟩ := ih (s := { s with
        busTrace := s.busTrace ++ [f], txq := rest, waitCnt := 0, csN := true, dc := true, dev := d, wire := wire }) hp rfl
    refine ⟨waitCnt, csN, dc, d', wire', ?_⟩
    rw [List.length_cons, run_succ, hstep, andThen_next]
    simpa using hrun

/-- Settles O59: the run in closed form, read off register by register. -/
theorem readyBusDrainsTheQueue : Obligations.ReadyBusDrainsTheQueue := by
  intro s hp
  obtain ⟨waitCnt, csN, dc, d, wire, hrun⟩ := run_withReadySteps hp
  exact ⟨_, hrun, rfl, rfl, rfl, rfl, by simp [SameEventSide], rfl, rfl, rfl, rfl, rfl, rfl⟩

end Sys2Proof.Machine
end

section
/-! SUPPORT. What the driver's frames draw (43_display.md R137, R139, R142): a row of bytes in display memory, and from it the glyph, the clear and
the line. -/

namespace Sys2Proof.Machine

/-! ### A row of bytes -/

theorem Device.putRow_page (x : Nat) (vs : List Byte) (d : Device) : (d.putRow x vs).page = d.page := by
  induction vs generalizing x d with
  | nil => rfl
  | cons v vs ih => exact ih ..

theorem Device.putRow_col (x : Nat) (vs : List Byte) (d : Device) : (d.putRow x vs).col = d.col + BitVec.ofNat 8 vs.length := by
  induction vs generalizing x d with
  | nil => simp [Device.putRow]
  | cons v vs ih =>
    rw [Device.putRow, ih, List.length_cons, Device.put, BitVec.add_assoc, Nat.add_comm, BitVec.ofNat_add]

/-- The bytes outside the row are as before. -/
theorem Device.putRow_pixelColumn_outside {x : Nat} {vs : List Byte} {d : Device} {q : Page} {y : Column} (hx : x + vs.length ≤ dispCols)
    (hqy : q ≠ d.page ∨ y.toNat < x ∨ x + vs.length ≤ y.toNat) : (d.putRow x vs).pixelColumn q y = d.pixelColumn q y := by
  induction vs generalizing x d with
  | nil => rfl
  | cons v vs ih =>
    simp only [List.length_cons, dispCols] at hx hqy
    have hqy' : q ≠ (d.put (BitVec.ofNat 7 x) v).page ∨ y.toNat < x + 1 ∨ x + 1 + vs.length ≤ y.toNat := hqy.imp_right (by omega)
    rw [Device.putRow, ih (by simp only [dispCols]; omega) hqy', Device.put, Device.pixelColumn_write, if_neg]
    rintro ⟨hq, rfl⟩
    rw [BitVec.toNat_ofNat, Nat.mod_eq_of_lt (by omega)] at hqy
    exact hqy.elim (fun h => h hq) (by omega)

/-- Byte `i` of the row stands at column `x + i`. -/
theorem Device.putRow_pixelColumn {x i : Nat} {vs : List Byte} {d : Device} {v : Byte} (hx : x + vs.length ≤ dispCols)
    (hi : vs[i]? = some v) : (d.putRow x vs).pixelColumn d.page (BitVec.ofNat 7 (x + i)) = v := by
  induction vs generalizing x i d with
  | nil => simp at hi
  | cons u vs ih =>
    simp only [List.length_cons, dispCols] at hx
    have hx' : x + 1 + vs.length ≤ dispCols := by simp only [dispCols]; omega
    cases i with
    | zero =>
      cases hi
      rw [Device.putRow, Device.putRow_pixelColumn_outside hx' (.inr (.inl ?_)), Device.put, Device.pixelColumn_write, if_pos ⟨rfl, rfl⟩]
      rw [BitVec.toNat_ofNat]
      omega
    | succ i =>
      rw [Device.putRow, ← Nat.add_assoc, Nat.add_right_comm]
      exact ih hx' hi

/-- From `d` to `d'` the bytes `vs` are written on `page` from column `x` on, and nothing else of display memory. -/
def RowDrawn (page : Page) (x : Nat) (vs : List Byte) (d d' : Device) : Prop :=
  (∀ (i : Nat) (v : Byte), vs[i]? = some v → d'.pixelColumn page (BitVec.ofNat 7 (x + i)) = v) ∧
  ∀ (q : Page) (y : Column), q ≠ page ∨ y.toNat < x ∨ x + vs.length ≤ y.toNat → d'.pixelColumn q y = d.pixelColumn q y

theorem Device.rowDrawn_putRow {x : Nat} {vs : List Byte} (d : Device) (hx : x + vs.length ≤ dispCols) :
    RowDrawn d.page x vs d (d.putRow x vs) :=
  ⟨fun _ _ => Device.putRow_pixelColumn hx, fun _ _ => Device.putRow_pixelColumn_outside hx⟩

/-- A cursor position and the bytes behind it draw one row, and leave the cursor behind the last byte. -/
theorem Device.feed_rowFrames (p : Params) (page : Byte) {x : Byte} {vs : List Byte} {d : Device} (h : initLen ≤ d.initCount)
    (hx : x.toNat + vs.length ≤ dispCols) :
    ∃ d', d.feed p.colOrigin (cursorFrames p page x ++ vs.map dataFrame) = .ok d' ∧ d'.initCount = d.initCount ∧
      d'.page = BitVec.ofNat 3 (page.toNat % 8) ∧ d'.col.toNat = x.toNat + vs.length + p.colOrigin.toNat ∧
      RowDrawn (BitVec.ofNat 3 (page.toNat % 8)) x.toNat vs d d' := by
  have hcol := deviceColumn_toNat p ((Nat.le_add_right ..).trans hx)
  rw [← extractLsb'_page]
  refine ⟨Device.putRow x.toNat vs { d with page := page.extractLsb' 0 3, col := deviceColumn p x }, ?_, Device.putRow_initCount ..,
    Device.putRow_page .., ?_, Device.rowDrawn_putRow { d with page := page.extractLsb' 0 3, col := deviceColumn p x } hx⟩
  · exact (Device.feed_append_ok (Device.feed_cursorFrames h ..) _).trans (Device.feed_row (by exact h) hcol hx)
  · have := p.colOrigin.isLt
    simp only [dispCols] at hx
    rw [Device.putRow_col, BitVec.toNat_add, hcol, BitVec.toNat_ofNat]
    omega

/-! ### The glyph (R137) -/

/-- The glyph of a character, left column first. -/
def glyphRow (p : Params) (c : CharCode) : List Byte := (List.range glyphW).map (glyphColumn p c)

@[simp] theorem glyphRow_length (p : Params) (c : CharCode) : (glyphRow p c).length = 8 := by simp [glyphRow]

theorem glyphRow_getElem? (p : Params) (c : CharCode) {i : Nat} (hi : i < 8) : (glyphRow p c)[i]? = some (glyphColumn p c i) := by
  simp [glyphRow, hi]

theorem glyphFrames_eq (p : Params) (page x : Byte) (c : CharCode) :
    glyphFrames p page x c = cursorFrames p page x ++ (glyphRow p c).map dataFrame := by
  simp [glyphFrames, glyphRow]

/-- Settles O36: the glyph's frames draw the row of its 8 bytes. -/
theorem glyphLandsInItsColumns : Obligations.GlyphLandsInItsColumns := by
  intro p page x c d hx hd
  have hrow : x.toNat + (glyphRow p c).length ≤ dispCols := by simpa using hx
  obtain ⟨d', hfeed, hcount, hpage, hcol, hin, hout⟩ := Device.feed_rowFrames p page hd hrow
  rw [glyphRow_length] at hcol hout
  rw [← hpage] at hin hout
  rw [glyphFrames_eq]
  exact ⟨d', hfeed, hcount, hpage, hcol, fun i hi => hin i _ (glyphRow_getElem? p c hi), hout⟩

/-! ### The clear (R139) -/

/-- The frames that clear one page. -/
def clearPageFrames (p : Params) (page : Nat) : List Frame :=
  cursorFrames p (BitVec.ofNat 8 page) 0#8 ++ List.replicate dispCols (dataFrame 0#8)

theorem clearFrames_eq (p : Params) : clearFrames p = (List.range dispPages).flatMap (clearPageFrames p) := rfl

theorem Device.feed_clearPageFrames (p : Params) {page : Nat} (hp : page < 8) {d : Device} (h : initLen ≤ d.initCount) :
    ∃ d', d.feed p.colOrigin (clearPageFrames p page) = .ok d' ∧ d'.initCount = d.initCount ∧ d'.page = BitVec.ofNat 3 page ∧
      d'.col.toNat = 128 + p.colOrigin.toNat ∧
      (∀ y, d'.pixelColumn (BitVec.ofNat 3 page) y = 0#8) ∧ ∀ q y, q ≠ BitVec.ofNat 3 page → d'.pixelColumn q y = d.pixelColumn q y := by
  obtain ⟨d', hfeed, hcount, hpage, hcol, hin, hout⟩ :=
    Device.feed_rowFrames p (BitVec.ofNat 8 page) (x := 0#8) (vs := List.replicate dispCols 0#8) h (by simp)
  have hmod : (BitVec.ofNat 8 page).toNat % 8 = page := by rw [BitVec.toNat_ofNat]; omega
  rw [hmod] at hpage hin hout
  rw [List.map_replicate] at hfeed
  refine ⟨d', hfeed, hcount, hpage, by simpa using hcol, fun y => ?_, fun q y hq => hout q y (.inl hq)⟩
  have hy := hin y.toNat 0#8 (List.getElem?_replicate_of_lt y.isLt)
  simpa using hy

/-- The first `n` pages of the clear leave the cursor behind the last of them. -/
theorem Device.feed_clearPages (p : Params) {n : Nat} (hn : n ≤ 8) {d : Device} (h : initLen ≤ d.initCount) :
    ∃ d', d.feed p.colOrigin ((List.range n).flatMap (clearPageFrames p)) = .ok d' ∧ d'.initCount = d.initCount ∧
      (∀ m, n = m + 1 → d'.page = BitVec.ofNat 3 m ∧ d'.col.toNat = 128 + p.colOrigin.toNat) ∧
      ∀ (q : Page) (y : Column), q.toNat < n → d'.pixelColumn q y = 0#8 := by
  induction n with
  | zero => exact ⟨d, rfl, rfl, nofun, nofun⟩
  | succ n ih =>
    obtain ⟨d₁, hfeed₁, hcount₁, -, hzero₁⟩ := ih (by omega)
    obtain ⟨d₂, hfeed₂, hcount₂, hpage, hcol, hzero, hkeep⟩ := Device.feed_clearPageFrames p hn (h.trans_eq hcount₁.symm)
    refine ⟨d₂, ?_, hcount₂.trans hcount₁, fun m hm => ?_, fun q y hq => ?_⟩
    · rw [List.range_succ, List.flatMap_append, List.flatMap_singleton, Device.feed_append_ok hfeed₁, hfeed₂]
    · cases hm
      exact ⟨hpage, hcol⟩
    · by_cases hqn : q = BitVec.ofNat 3 n
      · rw [hqn, hzero]
      · have hne : q.toNat ≠ n := fun hq => hqn (by rw [← hq]; simp)
        rw [hkeep q y hqn, hzero₁ q y (by omega)]

/-- Settles O37: all 8 pages. -/
theorem clearZeroesTheScreen : Obligations.ClearZeroesTheScreen := by
  intro p d hd
  obtain ⟨d', hfeed, hcount, hcursor, hzero⟩ := Device.feed_clearPages p le_rfl hd
  obtain ⟨hpage, hcol⟩ := hcursor 7 rfl
  rw [clearFrames_eq]
  exact ⟨d', hfeed, hcount, hpage, hcol, fun q y => hzero q y q.isLt⟩

/-! ### The line (R142, R143) -/

/-- From `d` to `d'` the glyphs of `cs` are drawn on `page` from column `x` on, and nothing else of display memory. -/
def LineDrawn (p : Params) (page : Page) (x : Nat) (cs : List CharCode) (d d' : Device) : Prop :=
  (∀ (k i : Nat) (c : CharCode), cs[k]? = some c → i < 8 → d'.pixelColumn page (BitVec.ofNat 7 (x + 8 * k + i)) = glyphColumn p c i) ∧
  ∀ (q : Page) (y : Column), q ≠ page ∨ y.toNat < x ∨ x + 8 * cs.length ≤ y.toNat → d'.pixelColumn q y = d.pixelColumn q y

theorem LineDrawn.nil (p : Params) (page : Page) (x : Nat) (d : Device) : LineDrawn p page x [] d d := ⟨nofun, fun _ _ _ => rfl⟩

/-- A glyph, and the rest of the line to its right. -/
theorem LineDrawn.cons {p : Params} {page : Page} {x : Nat} {c : CharCode} {cs : List CharCode} {d d₁ d₂ : Device} (hx : x ≤ lastStartCol)
    (hglyph : RowDrawn page x (glyphRow p c) d d₁) (hrest : LineDrawn p page (x + glyphW) cs d₁ d₂) :
    LineDrawn p page x (c :: cs) d d₂ := by
  obtain ⟨hin, hout⟩ := hglyph
  obtain ⟨hin', hout'⟩ := hrest
  simp only [lastStartCol, glyphW, glyphRow_length] at hx hin' hout hout'
  refine ⟨fun k i c' hk hi => ?_, fun q y hqy => ?_⟩
  · cases k with
    | zero =>
      cases hk
      rw [hout' page _ (.inr (.inl ?_)), Nat.mul_zero, Nat.add_zero, hin i _ (glyphRow_getElem? p c hi)]
      rw [BitVec.toNat_ofNat]
      omega
    | succ k =>
      rw [Nat.mul_succ, Nat.add_comm (8 * k), ← Nat.add_assoc]
      exact hin' k i c' hk hi
  · rw [List.length_cons] at hqy
    rw [hout' q y (hqy.imp_right (by omega)), hout q y (hqy.imp_right (by omega))]

theorem Device.feed_textFrames (p : Params) (page : Byte) (x : Nat) (s : List CharCode) {d : Device} (h : initLen ≤ d.initCount) :
    ∃ d', d.feed p.colOrigin (textFrames p page x s) = .ok d' ∧ d'.initCount = d.initCount ∧
      LineDrawn p (BitVec.ofNat 3 (page.toNat % 8)) x (s.take (drawnFrom x)) d d' := by
  induction s generalizing x d with
  | nil => exact ⟨d, by rw [textFrames_nil]; rfl, rfl, by rw [List.take_nil]; exact .nil ..⟩
  | cons c cs ih =>
    by_cases hx : x ≤ lastStartCol
    · have hx8 : (BitVec.ofNat 8 x).toNat = x := by
        simp only [lastStartCol] at hx
        rw [BitVec.toNat_ofNat]
        omega
      have hrow : (BitVec.ofNat 8 x).toNat + (glyphRow p c).length ≤ dispCols := by simpa [hx8] using hx
      obtain ⟨d₁, hfeed₁, hcount₁, -, -, hglyph⟩ := Device.feed_rowFrames p page h hrow
      obtain ⟨d₂, hfeed₂, hcount₂, hrest⟩ := ih (x + glyphW) (h.trans_eq hcount₁.symm)
      rw [textFrames_drawn p page hx, glyphFrames_eq, drawnFrom_succ hx, List.take_succ_cons]
      exact ⟨d₂, (Device.feed_append_ok hfeed₁ _).trans hfeed₂, hcount₂.trans hcount₁, .cons hx (hx8 ▸ hglyph) hrest⟩
    · have hclip := Nat.lt_of_not_le hx
      rw [textFrames_clipped p page hclip, drawnFrom_clipped hclip]
      exact ⟨d, rfl, rfl, .nil ..⟩

/-- Settles O38: the drawn characters, one glyph after another. -/
theorem textLandsOnTheScreen : Obligations.TextLandsOnTheScreen := by
  intro p page x s d hd
  obtain ⟨d', hfeed, hcount, hin, hout⟩ := Device.feed_textFrames p page x s hd
  rw [List.length_take, Nat.min_comm] at hout
  exact ⟨d', hfeed, hcount, hin, hout⟩

end Sys2Proof.Machine
end

section
/-! SUPPORT. The phases of the sampling orchestrator (44_sampling.md), one operation at a time: an equation per phase, or per branch of the phases
that poll, unmask or wait. -/

namespace Sys2Proof.Machine

/-! ### Queueing phases (R163, R164, R171, R172) -/

/-- Settles O39: the two queues, with the init list written out. -/
theorem startupPhasesQueueTheirFrames : Obligations.StartupPhasesQueueTheirFrames := fun _ => ⟨rfl, rfl⟩

/-- Settles O44: the two queues, with the bytes of both lines written out. -/
theorem renderPhasesQueueTheirLine : Obligations.RenderPhasesQueueTheirLine := fun _ => ⟨rfl, rfl⟩

/-! ### The analog phases (R165 to R168) -/

theorem ohmsFn_of_empty {p : Params} (h : p.ohmsTable = []) (code : AnalogCode) : ohmsFn p code = ohmsDefault code := by
  simp [ohmsFn, h]

theorem exec_phCompute (s : State) : exec .phCompute s = .next { s with ohms := ohmsFn s.params s.sample, phase := 6#4 } := rfl

/-- Settles O40: one equation per phase, and `OHMS_FN` without exceptions. -/
theorem analogPhasesStartPassAndCompute : Obligations.AnalogPhasesStartPassAndCompute := by
  refine ⟨fun _ => rfl, fun _ => rfl, exec_phCompute, fun s h => ?_⟩
  rw [exec_phCompute, ohmsFn_of_empty h]
  rfl

theorem exec_phWait_busy (code : AnalogCode) (s : State) : exec (.phWait false code) s = .next (pollFailed s) := rfl

/-- Settles O41: the read, and the two outcomes of a poll, which are those of `SEND`. -/
theorem waitReadsOrPolls : Obligations.WaitReadsOrPolls := by
  refine fun s code => ⟨rfl, fun hlim => ?_, fun hlim => ?_⟩
  · rw [exec_phWait_busy, pollFailed_below hlim]
  · rw [exec_phWait_busy, pollFailed_limit hlim]

/-- The scale is reached at `ADC_MAX`, the largest 12-bit code. -/
theorem ohmsFloor_le (code : AnalogCode) : code.toNat * 5000 / 4095 ≤ 5000 := by
  have hcode : code.toNat ≤ 4095 := Nat.le_of_lt_succ code.isLt
  exact Nat.div_le_of_le_mul (by omega)

/-- The default needs no reduction modulo 2^32. -/
theorem ohmsDefault_toNat (code : AnalogCode) : (ohmsDefault code).toNat = code.toNat * 5000 / 4095 := by
  rw [ohmsDefault, BitVec.toNat_ofNat]
  exact Nat.mod_eq_of_lt ((ohmsFloor_le code).trans_lt (by decide))

/-- Settles O42: the exact floor, its bound, and the monotonicity of product and quotient. -/
theorem defaultOhmsIsMonotoneFloor : Obligations.DefaultOhmsIsMonotoneFloor := by
  intro a b
  rw [ohmsDefault_toNat, ohmsDefault_toNat]
  exact ⟨rfl, ohmsFloor_le a, fun h => Nat.div_le_div_right (Nat.mul_le_mul_right 5000 h)⟩

/-! ### Mask and unmask (R170, R173) -/

/-- The state in which `PH_UNMASK` handles a pending edge. -/
def unmasked (s : State) : State := { s with edgeMask := false, edgePend := false }

section
variable {s : State}

theorem exec_phUnmask_without_edge (h : s.edgePend = false) : exec .phUnmask s = .next { s with edgeMask := false, phase := 10#4 } := by
  simp [exec, execPhUnmask, h, goto]

theorem exec_phUnmask_delivers (h : s.edgePend = true) : exec .phUnmask s = .next (goto phDelayArmCode (capEdge (unmasked s))) := by
  simp [exec, execPhUnmask, h, unmasked]

end

/-- Settles O43: the mask, and the unmasking without an edge or with one of the edge's three cases (41_capture.md R102, R103). -/
theorem maskAndUnmaskTheEdge : Obligations.MaskAndUnmaskTheEdge := by
  refine fun s => ⟨rfl, exec_phUnmask_without_edge, fun hp ha => ?_, fun hp ha ht => ?_, fun hp ha ht => ?_⟩
  · rw [exec_phUnmask_delivers hp, capEdge_idle (s := unmasked s) ha]
    rfl
  · rw [exec_phUnmask_delivers hp, capEdge_armed (s := unmasked s) ha, closingEdge_zero (s := unmasked s) ht]
    rfl
  · rw [exec_phUnmask_delivers hp, capEdge_armed (s := unmasked s) ha, closingEdge_reading (s := unmasked s) ht, frequencyReading_eq_mod]
    rfl

/-! ### The pacing delay and the stop (R174 to R176) -/

section
variable {s : State}

theorem exec_phDelayWait_over (h : 100 ≤ (s.ms - s.delayT0).toNat) : exec .phDelayWait s = .next { s with phase := 2#4 } := by
  have hover : delayOver s.ms s.delayT0 = true := decide_eq_true h
  simp [exec, execPhDelayWait, hover, goto]

theorem exec_phDelayWait_running (h : (s.ms - s.delayT0).toNat < 100) : exec .phDelayWait s = .next s := by
  have hrunning : delayOver s.ms s.delayT0 = false := decide_eq_false (Nat.not_le.mpr h)
  simp [exec, execPhDelayWait, hrunning]

end

/-- Settles O45: the note of the time, and both sides of the distance 100. -/
theorem pacingDelayLastsHundredTicks : Obligations.PacingDelayLastsHundredTicks :=
  fun _ => ⟨rfl, exec_phDelayWait_over, exec_phDelayWait_running⟩

/-- At the stop the foreground does nothing, with or without `FG`, whatever is queued. -/
theorem foregroundPart_stalled (w : StimWord) {s : State} (h : s.phase = phStalledCode) : foregroundPart w s = .next s := by
  cases hfg : w.fg with
  | false => exact foregroundPart_without_fg hfg s
  | true => exact foregroundPart_of_ok hfg (by rw [h]; exact decodeForeground_stalled _ w)

/-- Settles O46: the operation of the stop, and its selection before any `SEND` (30_encoding.md R73). -/
theorem stalledForegroundDoesNothing : Obligations.StalledForegroundDoesNothing :=
  ⟨fun _ => rfl, fun _ w h _ => foregroundPart_stalled w h⟩

end Sys2Proof.Machine
end

section
/-! SUPPORT. The sequencer over a step (44_sampling.md R161, R176): input, events and the display's turn leave the foreground side, so `PHASE`
moves as the one foreground operation moves it, and at the stop nothing of it moves. -/

namespace Sys2Proof.Machine

/-! ### The parts of a step around the foreground step -/

theorem SameForegroundSide.trans {s t u : State} (h : SameForegroundSide s t) (h' : SameForegroundSide t u) : SameForegroundSide s u := by
  obtain ⟨h₁, h₂, h₃, h₄, h₅, h₆, h₇, h₈, h₉, h₁₀, h₁₁, h₁₂, h₁₃⟩ := h
  simpa only [SameForegroundSide, h₁, h₂, h₃, h₄, h₅, h₆, h₇, h₈, h₉, h₁₀, h₁₁, h₁₂, h₁₃] using h'

theorem SameOutside.trans {s t u : State} (h : SameOutside s t) (h' : SameOutside t u) : SameOutside s u := by
  obtain ⟨h₁, h₂, h₃, h₄, h₅⟩ := h
  simpa only [SameOutside, h₁, h₂, h₃, h₄, h₅] using h'

theorem LeavesOtherSide.trans {s t u : State} (h : LeavesOtherSide s t) (h' : LeavesOtherSide t u) : LeavesOtherSide s u := by
  obtain ⟨hside, hout⟩ := h
  obtain ⟨hside', hout'⟩ := h'
  exact ⟨hside.trans hside', hout.trans hout'⟩

/-- The events of a word leave the foreground side and the outside (10_state.md R47). -/
theorem leavesOtherSide_eventPart {w : StimWord} {s t : State} (h : eventPart w s = .next t) : LeavesOtherSide s t :=
  execAll_keeps (P := LeavesOtherSide s)
    (fun _ hi _ _ hP hx => hP.trans (leavesOtherSide_event (context_of_event (mem_decodeEvents hi)) hx)) (.refl s) h

/-- A step on a stimulus word is its events, its foreground part and the display's turn, after an input that writes no register. -/
theorem step_stimulus_next {s t : State} (hw : TakesStimulus s) (h : step s = .next t) :
    ∃ w ins n e f, eventPart w { s with inputs := ins, envStep := n } = .next e ∧ foregroundPart w e = .next f ∧ t = devicePart f := by
  obtain ⟨w, hstep⟩ := step_takesStimulus hw
  obtain ⟨ins, n, hin⟩ := afterInput_frame s
  rw [hstep, hin] at h
  obtain ⟨e, f, he, hf, ht⟩ := globalStep_next h
  exact ⟨w, ins, n, e, f, he, hf, ht⟩

/-! ### The stop (R176, 60_exceptions.md R206) -/

/-- From `s` to `t` diagnostics are only added, and none of them is a stall. -/
def ReportsNoStall (s t : State) : Prop := ∃ e, t.diagTrace = s.diagTrace ++ e ∧ 3#2 ∉ e

theorem ReportsNoStall.of_same {s t : State} (h : t.diagTrace = s.diagTrace) : ReportsNoStall s t := ⟨[], by simp [h]⟩

theorem ReportsNoStall.trans {s t u : State} (h : ReportsNoStall s t) (h' : ReportsNoStall t u) : ReportsNoStall s u := by
  obtain ⟨e, ht, he⟩ := h
  obtain ⟨e', hu, he'⟩ := h'
  exact ⟨e ++ e', by rw [hu, ht, List.append_assoc], by simp [he, he']⟩

theorem reportsNoStall_capEdge (s : State) : ReportsNoStall s (capEdge s) := by
  rcases capEdge_cases s with ⟨-, h⟩ | ⟨-, -, h⟩ | ⟨-, -, h⟩ <;> rw [h]
  · exact .of_same rfl
  · exact ⟨[1#2], rfl, by decide⟩
  · exact .of_same rfl

/-- An event reports a zero-tick capture or an overflow, if anything (60_exceptions.md R200). -/
theorem reportsNoStall_event {i : Instr} {s t : State} (hi : i = .tick ∨ i = .fedge ∨ i = .mstick ∨ i = .bedge)
    (h : exec i s = .next t) : ReportsNoStall s t := by
  rcases exec_event_cases hi h with ⟨-, ht⟩ | ⟨-, ht⟩ | ⟨-, rfl⟩ | ⟨-, ht⟩
  · rcases ht with ⟨-, rfl⟩ | ⟨-, -, rfl⟩ | ⟨-, -, rfl⟩
    · exact .of_same rfl
    · exact .of_same rfl
    · exact ⟨[2#2], rfl, by decide⟩
  · rcases ht with ⟨-, -, rfl⟩ | ⟨-, -, rfl⟩ | ⟨-, rfl⟩
    · exact .of_same rfl
    · exact .of_same rfl
    · exact reportsNoStall_capEdge s
  · exact .of_same rfl
  · rcases ht with ⟨-, rfl⟩ | ⟨-, rfl⟩ <;> exact .of_same rfl

theorem reportsNoStall_eventPart {w : StimWord} {s t : State} (h : eventPart w s = .next t) : ReportsNoStall s t :=
  execAll_keeps (P := ReportsNoStall s) (fun _ hi _ _ hP hx => hP.trans (reportsNoStall_event (mem_decodeEvents hi) hx)) (.of_same rfl) h

/-- Settles O47: at the stop the foreground part is empty, and the events, the only other part of the block, leave its side. -/
theorem stallIsForEver : Obligations.StallIsForEver := by
  intro s t hw hp h
  obtain ⟨w, ins, n, e, f, he, hf, rfl⟩ := step_stimulus_next hw h
  obtain ⟨hside, -⟩ := leavesOtherSide_eventPart he
  have hpe : e.phase = phStalledCode := hside.1.symm.trans hp
  cases (foregroundPart_stalled w hpe).symm.trans hf
  obtain ⟨d, wire, hdev⟩ := devicePart_frame e
  obtain ⟨codes, hdiag, hnone⟩ := reportsNoStall_eventPart he
  rw [hdev]
  exact ⟨hside, codes, hdiag, hnone⟩

/-! ### The successor table (R161) -/

/-- `PHASE` from `s` to `t`: kept, the successor with nothing queued, or the stop at a finite limit in one of the two waits. -/
def PhaseMoves (s t : State) : Prop :=
  t.phase = s.phase ∨ (t.phase = successor s.phase ∧ s.txq = []) ∨
    (t.phase = phStalledCode ∧ s.params.waitLimit ≠ .infinity ∧ (s.txq ≠ [] ∨ s.phase = phWaitCode))

/-- A poll keeps `PHASE`, or stops at the limit, which is then finite. -/
theorem phaseMoves_pollFailed {s : State} (h : s.txq ≠ [] ∨ s.phase = phWaitCode) : PhaseMoves s (pollFailed s) := by
  rcases pollFailed_cases s with ⟨-, ht⟩ | ⟨hlim, ht⟩ <;> rw [ht]
  · exact .inl rfl
  · refine .inr (.inr ⟨rfl, fun hinf => ?_, h⟩)
    simp [hinf] at hlim

theorem phaseMoves_foreground {w : StimWord} {i : Instr} {s t : State} (hi : decodeForeground s.phase (!s.txq.isEmpty) w = .ok i)
    (h : exec i s = .next t) : PhaseMoves s t := by
  rcases exec_foreground_cases hi h with ⟨-, -, rfl⟩ | ⟨-, -, f, rest, hq, rfl | rfl⟩ | ⟨hq, hphase⟩
  · exact .inl rfl
  · exact .inl rfl
  · exact phaseMoves_pollFailed (.inl (by simp [hq]))
  have hnext {u : State} (hu : u.phase = successor s.phase) : PhaseMoves s u := .inr (.inl ⟨hu, hq⟩)
  rcases hphase with ⟨-, hp, rfl⟩ | ⟨-, hp, rfl⟩ | ⟨-, hp, rfl⟩ | ⟨-, hp, rfl | rfl⟩ | ⟨-, hp, rfl⟩ | ⟨-, hp, rfl⟩ | ⟨-, hp, rfl⟩ |
    ⟨-, hp, rfl⟩ | ⟨-, hp, rfl⟩ | ⟨-, hp, ⟨-, rfl⟩ | ⟨-, rfl⟩⟩ | ⟨-, hp, rfl⟩ | ⟨-, hp, rfl | rfl⟩
  iterate 4 exact hnext (hp ▸ rfl)
  · exact phaseMoves_pollFailed (.inr hp)
  iterate 9 exact hnext (hp ▸ rfl)
  · exact .inl rfl

/-- Settles O49: the foreground step finds `PHASE`, the queue and the parameters as the step began. -/
theorem phaseFollowsSuccessorTable : Obligations.PhaseFollowsSuccessorTable := by
  intro s t hw _ h
  obtain ⟨w, ins, n, e, f, he, hf, rfl⟩ := step_stimulus_next hw h
  obtain ⟨⟨-, -, -, hparams⟩, hphase, htxq⟩ := (leavesOtherSide_eventPart he).leavesDisplay
  have hmoves : PhaseMoves e f := by
    rcases foregroundPart_cases hf with ⟨-, rfl⟩ | ⟨-, i, hi, hx⟩
    · exact .inl rfl
    · exact phaseMoves_foreground hi hx
  obtain ⟨d, wire, hdev⟩ := devicePart_frame f
  rw [hdev]
  simpa only [PhaseMoves, hparams, hphase, htxq] using hmoves

end Sys2Proof.Machine
end

section
/-! SUPPORT. The mask and the refresh (44_sampling.md R170, R173; 10_state.md R27): `MaskInv` over the parts of a step. -/

namespace Sys2Proof.Machine

/-- What leaves `PHASE`, `EDGE_MASK` and the parameters keeps the invariant, if an edge that becomes pending is masked under `LATCH`. -/
theorem MaskInv.of_pend {s t : State} (hs : MaskInv s) (hphase : t.phase = s.phase) (hmask : t.edgeMask = s.edgeMask)
    (hparams : t.params = s.params)
    (hpend : t.edgePend = true → s.edgePend = true ∨ (s.edgeMask = true ∧ s.params.maskedEdge = .latch)) : MaskInv t := by
  obtain ⟨hwindow, hbehind⟩ := hs
  rw [MaskInv, hphase, hmask, hparams]
  exact ⟨hwindow, fun h => (hpend h).elim hbehind id⟩

theorem capEdge_edgePend (s : State) : (capEdge s).edgePend = s.edgePend := by
  rcases capEdge_cases s with ⟨-, h⟩ | ⟨-, -, h⟩ | ⟨-, -, h⟩ <;> rw [h]

/-- Of the events only a masked edge under `LATCH` becomes pending (41_capture.md R104). -/
theorem edgePend_event {i : Instr} {s t : State} (hi : i = .tick ∨ i = .fedge ∨ i = .mstick ∨ i = .bedge) (h : exec i s = .next t) :
    t.edgePend = s.edgePend ∨ (s.edgeMask = true ∧ s.params.maskedEdge = .latch) := by
  rcases exec_event_cases hi h with ⟨-, ht⟩ | ⟨-, ht⟩ | ⟨-, rfl⟩ | ⟨-, ht⟩
  · rcases ht with ⟨-, rfl⟩ | ⟨-, -, rfl⟩ | ⟨-, -, rfl⟩ <;> exact .inl rfl
  · rcases ht with ⟨hmask, hlatch, -⟩ | ⟨-, -, rfl⟩ | ⟨-, rfl⟩
    · exact .inr ⟨hmask, hlatch⟩
    · exact .inl rfl
    · exact .inl (capEdge_edgePend s)
  · exact .inl rfl
  · rcases ht with ⟨-, rfl⟩ | ⟨-, rfl⟩ <;> exact .inl rfl

theorem maskInv_event {i : Instr} {s t : State} (hi : i = .tick ∨ i = .fedge ∨ i = .mstick ∨ i = .bedge) (hs : MaskInv s)
    (h : exec i s = .next t) : MaskInv t := by
  obtain ⟨⟨hphase, -, -, -, -, -, -, -, -, hmask, -⟩, -, -, -, -, hparams⟩ := leavesOtherSide_event (context_of_event hi) h
  exact hs.of_pend hphase.symm hmask.symm hparams.symm fun hp => (edgePend_event hi h).imp_left fun heq => heq.symm.trans hp

/-- The phases in which the edge event is masked. -/
def masksEdge (phase : PhaseCode) : Bool := decide (phase = phRenderRCode ∨ phase = phRenderFCode ∨ phase = phUnmaskCode)

/-- `PHASE` moves on both inside or both outside the mask window. -/
theorem MaskInv.of_move {s t : State} (hs : MaskInv s) (h12 : s.phase ≠ phStalledCode) (hphase : masksEdge t.phase = masksEdge s.phase)
    (hmask : t.edgeMask = s.edgeMask) (hparams : t.params = s.params) (hpend : t.edgePend = s.edgePend) : MaskInv t := by
  obtain ⟨hwindow, hbehind⟩ := hs
  rw [MaskInv, hmask, hparams, hpend]
  exact ⟨fun _ => (hwindow h12).trans (decide_eq_decide.mp hphase.symm), hbehind⟩

/-- A poll that stops the sequencer leaves the mask as it was. -/
theorem maskInv_pollFailed {s : State} (hs : MaskInv s) : MaskInv (pollFailed s) := by
  rcases pollFailed_cases s with ⟨-, h⟩ | ⟨-, h⟩ <;> rw [h]
  · exact hs
  · exact ⟨fun h12 => absurd rfl h12, hs.2⟩

/-- The end of the window: nothing masked and nothing pending, outside the phases of the refresh. -/
theorem maskInv_unmasked {s : State} (hphase : masksEdge s.phase = false) (hmask : s.edgeMask = false) (hpend : s.edgePend = false) :
    MaskInv s := by
  rw [MaskInv, hmask, hpend]
  exact ⟨fun _ => iff_of_false nofun (of_decide_eq_false hphase), nofun⟩

theorem maskInv_foreground {w : StimWord} {i : Instr} {s t : State} (hi : decodeForeground s.phase (!s.txq.isEmpty) w = .ok i)
    (hs : MaskInv s) (h : exec i s = .next t) : MaskInv t := by
  rcases exec_foreground_cases hi h with ⟨-, -, rfl⟩ | ⟨-, -, f, rest, -, rfl | rfl⟩ | ⟨-, hphase⟩
  · exact hs
  · exact hs
  · exact maskInv_pollFailed hs
  have hmove {u : State} (h12 : s.phase ≠ phStalledCode) (hu : masksEdge u.phase = masksEdge s.phase) :
      u.edgeMask = s.edgeMask → u.params = s.params → u.edgePend = s.edgePend → MaskInv u := hs.of_move h12 hu
  rcases hphase with ⟨-, hp, rfl⟩ | ⟨-, hp, rfl⟩ | ⟨-, hp, rfl⟩ | ⟨-, hp, rfl | rfl⟩ | ⟨-, hp, rfl⟩ | ⟨-, hp, rfl⟩ | ⟨-, -, rfl⟩ |
    ⟨-, hp, rfl⟩ | ⟨-, hp, rfl⟩ | ⟨-, -, ⟨-, rfl⟩ | ⟨hpend, rfl⟩⟩ | ⟨-, hp, rfl⟩ | ⟨-, hp, rfl | rfl⟩
  iterate 4 exact hmove (hp ▸ nofun) (hp ▸ rfl) rfl rfl rfl
  · exact maskInv_pollFailed hs
  iterate 2 exact hmove (hp ▸ nofun) (hp ▸ rfl) rfl rfl rfl
  · exact ⟨fun _ => iff_of_true rfl (.inl rfl), fun hp => ⟨rfl, (hs.2 hp).2⟩⟩
  iterate 2 exact hmove (hp ▸ nofun) (hp ▸ rfl) rfl rfl rfl
  · obtain ⟨⟨-, -, -, -, -, -, -, -, -, hmask, -⟩, -⟩ := leavesOtherSide_capEdge (unmasked s)
    exact maskInv_unmasked rfl hmask.symm (capEdge_edgePend _)
  · exact maskInv_unmasked rfl rfl hpend
  iterate 2 exact hmove (hp ▸ nofun) (hp ▸ rfl) rfl rfl rfl
  · exact hs

/-- Settles O50: every part of a step keeps the invariant, and a reset meets it. -/
theorem maskBracketsTheRefresh : Obligations.MaskBracketsTheRefresh := by
  intro s t
  refine step_keeps (P := MaskInv) (fun u hu => ?_) (fun _ _ => maskInv_unmasked rfl rfl rfl) (fun _ _ _ => maskInv_event)
    (fun _ _ _ _ => maskInv_foreground) fun u hu => ?_
  · obtain ⟨ins, n, hin⟩ := afterInput_frame u
    rwa [hin]
  · obtain ⟨d, wire, hdev⟩ := devicePart_frame u
    rwa [hdev]

end Sys2Proof.Machine
end

section
/-! SUPPORT. One code per iteration (44_sampling.md R177): `IterationInv` over the parts of a step. -/

namespace Sys2Proof.Machine

/-- From `s` to `t` the sample, what was computed from it, and the parameters stay. -/
def KeepsCode (s t : State) : Prop := t.sample = s.sample ∧ t.dacData = s.dacData ∧ t.ohms = s.ohms ∧ t.params = s.params

/-- `IterationInv` speaks of `PHASE` and what `KeepsCode` speaks of. -/
theorem IterationInv.of_same {s t : State} (hs : IterationInv s) (hphase : t.phase = s.phase) (h : KeepsCode s t) : IterationInv t := by
  obtain ⟨hsample, hdac, hohms, hparams⟩ := h
  rwa [IterationInv, hphase, hsample, hdac, hohms, hparams]

/-- The phases in which an iteration has passed its code on. -/
def codePassedOn (phase : PhaseCode) : Bool := decide (phComputeCode.toNat ≤ phase.toNat ∧ phase.toNat ≤ phDelayWaitCode.toNat)

/-- The phases in which an iteration has computed its resistance too. -/
def resistanceComputed (phase : PhaseCode) : Bool := decide (phMaskCode.toNat ≤ phase.toNat ∧ phase.toNat ≤ phDelayWaitCode.toNat)

theorem iterationInv_iff (s : State) :
    IterationInv s ↔
      (codePassedOn s.phase = true → s.dacData = s.sample) ∧
      (resistanceComputed s.phase = true → s.ohms = ohmsFn s.params s.sample) := by
  simp only [IterationInv, codePassedOn, resistanceComputed, decide_eq_true_iff]

theorem codePassedOn_of_computed {phase : PhaseCode} (h : resistanceComputed phase = true) : codePassedOn phase = true := by
  revert phase; decide

/-- Outside the phases 5 to 11 the invariant says nothing. -/
theorem iterationInv_of_not_passedOn {s : State} (h : codePassedOn s.phase = false) : IterationInv s := by
  have hnot : codePassedOn s.phase ≠ true := by simp [h]
  exact (iterationInv_iff s).mpr ⟨fun hp => absurd hp hnot, fun hc => absurd (codePassedOn_of_computed hc) hnot⟩

/-- From `PH_MASK` on `PHASE` moves freely where the code and what was computed from it stay. -/
theorem IterationInv.of_computed {s t : State} (hs : IterationInv s) (hphase : resistanceComputed s.phase = true) (h : KeepsCode s t) :
    IterationInv t := by
  obtain ⟨hsample, hdac, hohms, hparams⟩ := h
  obtain ⟨hpassed, hcomputed⟩ := (iterationInv_iff s).mp hs
  rw [iterationInv_iff, hsample, hdac, hohms, hparams]
  exact ⟨fun _ => hpassed (codePassedOn_of_computed hphase), fun _ => hcomputed hphase⟩

theorem iterationInv_event {i : Instr} {s t : State} (hi : Instr.context i = .event) (hs : IterationInv s) (h : exec i s = .next t) :
    IterationInv t := by
  obtain ⟨⟨hphase, -, hsample, hdac, hohms, -⟩, -, -, -, -, hparams⟩ := leavesOtherSide_event hi h
  exact hs.of_same hphase.symm ⟨hsample.symm, hdac.symm, hohms.symm, hparams.symm⟩

theorem iterationInv_pollFailed {s : State} (hs : IterationInv s) : IterationInv (pollFailed s) := by
  rcases pollFailed_cases s with ⟨-, h⟩ | ⟨-, h⟩ <;> rw [h]
  · exact hs
  · exact iterationInv_of_not_passedOn rfl

theorem iterationInv_foreground {w : StimWord} {i : Instr} {s t : State} (hi : decodeForeground s.phase (!s.txq.isEmpty) w = .ok i)
    (hs : IterationInv s) (h : exec i s = .next t) : IterationInv t := by
  rcases exec_foreground_cases hi h with ⟨-, -, rfl⟩ | ⟨-, -, f, rest, -, rfl | rfl⟩ | ⟨-, hphase⟩
  · exact hs
  · exact hs
  · exact iterationInv_pollFailed hs
  rcases hphase with ⟨-, -, rfl⟩ | ⟨-, -, rfl⟩ | ⟨-, -, rfl⟩ | ⟨-, -, rfl | rfl⟩ | ⟨-, -, rfl⟩ | ⟨-, hp, rfl⟩ | ⟨-, hp, rfl⟩ |
    ⟨-, hp, rfl⟩ | ⟨-, hp, rfl⟩ | ⟨-, hp, ⟨-, rfl⟩ | ⟨-, rfl⟩⟩ | ⟨-, hp, rfl⟩ | ⟨-, -, rfl | rfl⟩
  iterate 4 exact iterationInv_of_not_passedOn rfl
  · exact iterationInv_pollFailed hs
  · exact ⟨fun _ => rfl, nofun⟩
  · obtain ⟨hpassed, -⟩ := (iterationInv_iff s).mp hs
    exact ⟨fun _ => hpassed (hp ▸ rfl), fun _ => rfl⟩
  iterate 3 exact hs.of_computed (hp ▸ rfl) ⟨rfl, rfl, rfl, rfl⟩
  · obtain ⟨⟨-, -, hsample, hdac, hohms, -⟩, -, -, -, -, hparams⟩ :=
      leavesOtherSide_capEdge (unmasked s)
    exact hs.of_computed (hp ▸ rfl) ⟨hsample.symm, hdac.symm, hohms.symm, hparams.symm⟩
  iterate 2 exact hs.of_computed (hp ▸ rfl) ⟨rfl, rfl, rfl, rfl⟩
  · exact iterationInv_of_not_passedOn rfl
  · exact hs

/-- Settles O51: every part of a step keeps the invariant, and a reset stands before the first iteration. -/
theorem oneCodePerIteration : Obligations.OneCodePerIteration := by
  intro s t
  refine step_keeps (P := IterationInv) (fun u hu => ?_) (fun _ _ => iterationInv_of_not_passedOn rfl)
    (fun _ _ _ hi => iterationInv_event (context_of_event hi)) (fun _ _ _ _ => iterationInv_foreground) fun u hu => ?_
  · obtain ⟨ins, n, hin⟩ := afterInput_frame u
    rwa [hin]
  · obtain ⟨d, wire, hdev⟩ := devicePart_frame u
    rwa [hdev]

end Sys2Proof.Machine
end

section
/-! SUPPORT. The diagnostics of a step (60_exceptions.md R209): the codes each operation reports, and that the edge after an overflow arms, so
the events of a word report at most one. -/

namespace Sys2Proof.Machine

/-! ### The codes from one state to another -/

/-- From `s` to `t` exactly these diagnostics are added. -/
def Reports (codes : List DiagCode) (s t : State) : Prop := t.diagTrace = s.diagTrace ++ codes

theorem Reports.of_same {s t : State} (h : t.diagTrace = s.diagTrace) : Reports [] s t := by simpa [Reports] using h

theorem Reports.of_eq {s t : State} (h : t = s) : Reports [] s t := .of_same (congrArg State.diagTrace h)

theorem Reports.trans {cs ds : List DiagCode} {s t u : State} (h : Reports cs s t) (h' : Reports ds t u) : Reports (cs ++ ds) s u := by
  rw [Reports, h', h, List.append_assoc]

/-- Where a strobe is not set, its operation is not performed. -/
theorem strobe_next {b : Bool} {i : Instr} {s t : State} (h : (if b then exec i s else .next s) = .next t) :
    t = s ∨ exec i s = .next t := by
  cases b with
  | false => exact .inl (Host.Outcome.next.inj h).symm
  | true => exact .inr h

/-! ### Events -/

/-- Only a closing edge reports, and only a session without a tick (41_capture.md R103). -/
theorem reports_capEdge (s : State) : Reports [] s (capEdge s) ∨ (s.armed = true ∧ Reports [1#2] s (capEdge s)) := by
  rcases capEdge_cases s with ⟨-, h⟩ | ⟨ha, -, h⟩ | ⟨-, -, h⟩ <;> rw [h]
  · exact .inl (.of_same rfl)
  · exact .inr ⟨ha, rfl⟩
  · exact .inl (.of_same rfl)

/-- A tick reports an overflow or nothing; after the overflow the session is Idle (41_capture.md R106). -/
theorem reports_tick {s t : State} (h : exec .tick s = .next t) : Reports [] s t ∨ (Reports [2#2] s t ∧ t.armed = false) := by
  rcases exec_event_cases (.inl rfl) h with ⟨-, ht⟩ | ⟨hi, -⟩ | ⟨hi, -⟩ | ⟨hi, -⟩
  · rcases ht with ⟨-, rfl⟩ | ⟨-, -, rfl⟩ | ⟨-, -, rfl⟩
    · exact .inl (.of_same rfl)
    · exact .inl (.of_same rfl)
    · exact .inr ⟨rfl, rfl⟩
  all_goals cases hi

/-- An edge reports only where it finds an Armed session (41_capture.md R104). -/
theorem reports_fedge {s t : State} (h : exec .fedge s = .next t) : Reports [] s t ∨ (s.armed = true ∧ Reports [1#2] s t) := by
  rcases exec_event_cases (.inr (.inl rfl)) h with ⟨hi, -⟩ | ⟨-, ht⟩ | ⟨hi, -⟩ | ⟨hi, -⟩
  case inr.inl =>
    rcases ht with ⟨-, -, rfl⟩ | ⟨-, -, rfl⟩ | ⟨-, rfl⟩
    · exact .inl (.of_same rfl)
    · exact .inl (.of_same rfl)
    · exact reports_capEdge s
  all_goals cases hi

/-- The debounce unit's events report nothing (42_debounce.md R120, R121). -/
theorem reports_debounce {i : Instr} {s t : State} (hi : i = .mstick ∨ i = .bedge) (h : exec i s = .next t) : Reports [] s t := by
  rcases exec_event_cases (.inr (.inr hi)) h with ⟨rfl, -⟩ | ⟨rfl, -⟩ | ⟨-, rfl⟩ | ⟨-, ht⟩
  · simp at hi
  · simp at hi
  · exact .of_same rfl
  · rcases ht with ⟨-, rfl⟩ | ⟨-, rfl⟩ <;> exact .of_same rfl

/-- An edge after the tick of its step reports only where the tick did not: an overflow leaves no session to close (41_capture.md R107). -/
theorem reports_eventPart {w : StimWord} {s t : State} (h : eventPart w s = .next t) :
    ∃ e, Reports e s t ∧ (e = [] ∨ e = [1#2] ∨ e = [2#2]) := by
  rw [eventPart_eq] at h
  obtain ⟨a, htick, h⟩ := andThen_eq_next h
  obtain ⟨b, hedge, h⟩ := andThen_eq_next h
  obtain ⟨c, hms, hbutton⟩ := andThen_eq_next h
  have ha : Reports [] s a ∨ (Reports [2#2] s a ∧ a.armed = false) :=
    (strobe_next htick).elim (fun hsame => .inl (.of_eq hsame)) reports_tick
  have hb : Reports [] a b ∨ (a.armed = true ∧ Reports [1#2] a b) :=
    (strobe_next hedge).elim (fun hsame => .inl (.of_eq hsame)) reports_fedge
  have hc : Reports [] b c := (strobe_next hms).elim .of_eq (reports_debounce (.inl rfl))
  have ht : Reports [] c t := (strobe_next hbutton).elim .of_eq (reports_debounce (.inr rfl))
  have hbt : Reports [] b t := hc.trans ht
  rcases ha with ha | ⟨ha, hidle⟩ <;> rcases hb with hb | ⟨harmed, hb⟩
  · exact ⟨[], (ha.trans hb).trans hbt, .inl rfl⟩
  · exact ⟨[1#2], (ha.trans hb).trans hbt, .inr (.inl rfl)⟩
  · exact ⟨[2#2], (ha.trans hb).trans hbt, .inr (.inr rfl)⟩
  · simp [hidle] at harmed

/-! ### The foreground step -/

/-- What a foreground step may report: nothing, or one zero-tick capture or stall (R209). -/
def ReportsForeground (s t : State) : Prop := ∃ f, Reports f s t ∧ (f = [] ∨ f = [1#2] ∨ f = [3#2])

theorem ReportsForeground.of_same {s t : State} (h : t.diagTrace = s.diagTrace) : ReportsForeground s t := ⟨[], .of_same h, .inl rfl⟩

/-- A poll reports the stall at the limit, else nothing (43_display.md R134). -/
theorem reportsForeground_pollFailed (s : State) : ReportsForeground s (pollFailed s) := by
  rcases pollFailed_cases s with ⟨-, h⟩ | ⟨-, h⟩ <;> rw [h]
  · exact .of_same rfl
  · exact ⟨[3#2], rfl, .inr (.inr rfl)⟩

/-- The pending edge that `PH_UNMASK` delivers reports as any edge does (44_sampling.md R173). -/
theorem reportsForeground_unmask (s : State) : ReportsForeground s (goto phDelayArmCode (capEdge (unmasked s))) := by
  rcases reports_capEdge (unmasked s) with h | ⟨-, h⟩
  · exact ⟨[], h, .inl rfl⟩
  · exact ⟨[1#2], h, .inr (.inl rfl)⟩

theorem reportsForeground_foreground {w : StimWord} {i : Instr} {s t : State} (hi : decodeForeground s.phase (!s.txq.isEmpty) w = .ok i)
    (h : exec i s = .next t) : ReportsForeground s t := by
  rcases exec_foreground_cases hi h with ⟨-, -, rfl⟩ | ⟨-, -, f, rest, -, rfl | rfl⟩ | ⟨-, hphase⟩
  · exact .of_same rfl
  · exact .of_same rfl
  · exact reportsForeground_pollFailed s
  rcases hphase with ⟨-, -, rfl⟩ | ⟨-, -, rfl⟩ | ⟨-, -, rfl⟩ | ⟨-, -, rfl | rfl⟩ | ⟨-, -, rfl⟩ | ⟨-, -, rfl⟩ | ⟨-, -, rfl⟩ |
    ⟨-, -, rfl⟩ | ⟨-, -, rfl⟩ | ⟨-, -, ⟨-, rfl⟩ | ⟨-, rfl⟩⟩ | ⟨-, -, rfl⟩ | ⟨-, -, rfl | rfl⟩
  iterate 4 exact .of_same rfl
  · exact reportsForeground_pollFailed s
  iterate 5 exact .of_same rfl
  · exact reportsForeground_unmask s
  iterate 4 exact .of_same rfl

/-! ### The step -/

/-- Settles O24: the event part's code, then the foreground part's; the input and the display's turn report nothing. -/
theorem atMostTwoDiagnosticsInOrder : Obligations.AtMostTwoDiagnosticsInOrder := by
  intro s t hw h
  obtain ⟨w, ins, n, a, b, ha, hb, rfl⟩ := step_stimulus_next hw h
  obtain ⟨e, he, hecodes⟩ := reports_eventPart ha
  have hforeground : ReportsForeground a b := by
    rcases foregroundPart_cases hb with ⟨-, rfl⟩ | ⟨-, i, hi, hx⟩
    · exact .of_same rfl
    · exact reportsForeground_foreground hi hx
  obtain ⟨f, hf, hfcodes⟩ := hforeground
  obtain ⟨d, wire, hdev⟩ := devicePart_frame b
  rw [hdev]
  have hef : Reports (e ++ f) s b := he.trans hf
  exact ⟨e, f, Eq.trans hef (List.append_assoc ..).symm, hecodes, hfcodes⟩

end Sys2Proof.Machine
end

section
/-! SUPPORT. The reset state (70_reset_and_hazards.md R230, R231): its registers, the state a step on `RST` answers, and the invariants, which it
meets. -/

namespace Sys2Proof.Machine

/-- Settles O52: the table of R231, read off the fields of the reset state. -/
theorem resetStateHasTheResetValues : Obligations.ResetStateHasTheResetValues :=
  ⟨rfl, fun _ => ⟨rfl, rfl, rfl, rfl, rfl, rfl, rfl, rfl, rfl, rfl, rfl, rfl, rfl, rfl, rfl, rfl, rfl, rfl, rfl⟩⟩

theorem step_rst {s : State} {rest : List Input} (h : s.inputs = .rst :: rest) :
    step s = .next (resetStep { s with inputs := rest }) := step_listed h

/-- Settles O53: the step is `resetStep`, register by register, with a display at a power-on of its own. -/
theorem resetInputGivesResetValues : Obligations.ResetInputGivesResetValues := fun _ _ h =>
  ⟨_, step_rst h, rfl, rfl, rfl, rfl, rfl, rfl, rfl, rfl, rfl, rfl, rfl, rfl, rfl, rfl, rfl, rfl, rfl, rfl, rfl, rfl, rfl, rfl,
    Device.powerOn_pixelColumn _, rfl, rfl, rfl, rfl, rfl⟩

/-! ### The invariants -/

theorem maskInv_resetWith (p : Params) : MaskInv (State.resetWith p) := ⟨fun _ => ⟨nofun, by rintro (h | h | h) <;> cases h⟩, nofun⟩

theorem memoryInv_resetWith (p : Params) : MemoryInv (State.resetWith p) := ⟨Memory.wf_nil, Nat.zero_le _⟩

theorem displayInv_resetWith (p : Params) : DisplayInv (State.resetWith p) :=
  ⟨rfl, rfl, fun _ => ⟨rfl, rfl⟩, nofun, fun h => absurd rfl h⟩

/-- Settles O54: one invariant after another, each at `PH_INIT` with nothing queued, sent or masked. -/
theorem resetMeetsTheInvariants : Obligations.ResetMeetsTheInvariants := fun p =>
  ⟨⟨rfl, rfl⟩, rfl, maskInv_resetWith p, iterationInv_of_not_passedOn rfl, memoryInv_resetWith p, rfl, displayInv_resetWith p⟩

end Sys2Proof.Machine
end

section
/-! SUPPORT. The start-up (70_reset_and_hazards.md R232): ready steps through the two phases that queue and drain their frames, and the screen the
frames of both leave. -/

namespace Sys2Proof.Machine

/-! ### Ready steps in parts -/

/-- What every step keeps, a run keeps. -/
theorem run_keeps {P : State → Prop} (hstep : ∀ s t, P s → step s = .next t → P t) {k : Nat} {s t : State} (hs : P s)
    (h : run k s = .next t) : P t := by
  induction k generalizing s with
  | zero => cases h; exact hs
  | succ k ih =>
    obtain ⟨u, hu, hrest⟩ := andThen_eq_next h
    exact ih (hstep s u hs hu) hrest

theorem displayInv_run {k : Nat} {s t : State} (hp : PhaseInv s) (hs : DisplayInv s) (h : run k s = .next t) : DisplayInv t :=
  (run_keeps (P := fun u => PhaseInv u ∧ DisplayInv u)
    (fun u v ⟨hu, hdisplay⟩ hv => ⟨phaseInv_step hu hv, displayNeverRefusesAFrame u v hu hdisplay hv⟩) ⟨hp, hs⟩ h).2

/-- Where the first `m` of `m + n` ready steps take `s` to `t`, the rest of the run starts at `t`. -/
theorem run_withReadySteps_add {m n : Nat} {s t : State} (h : run m (withReadySteps m (withReadySteps n s)) = .next (withReadySteps n t)) :
    run (m + n) (withReadySteps (m + n) s) = run n (withReadySteps n t) := by
  have hsplit : withReadySteps (m + n) s = withReadySteps m (withReadySteps n s) := by
    simp only [withReadySteps, withInputs, List.replicate_add, List.append_assoc]
  rw [hsplit, run_add, h, andThen_next]

/-- One ready step with an empty queue performs the phase's operation. -/
theorem step_withReadySteps_idle (n : Nat) {s t : State} {i : Instr} (hp : s.phase.toNat < 12) (hq : s.txq = [])
    (hi : decodePhase s.phase 0x00050#19 = .ok i) (hx : exec i (withReadySteps n s) = .next t) :
    ∃ d wire, step (withReadySteps (n + 1) s) = .next { t with dev := d, wire := wire } := by
  obtain ⟨-, -, hforeground, -⟩ := stepRunsDecodedOperation
  have hdecode : decodeForeground s.phase (!s.txq.isEmpty) 0x00050#19 = .ok i := by
    rw [hq]; exact (decodeForeground_idle hp _).trans hi
  have hstep : step (withReadySteps (n + 1) s) = andThen (exec i (withReadySteps n s)) fun t => .next (devicePart t) :=
    hforeground _ 0x00050#19 _ _ rfl rfl rfl (decode_foreground_iff.mpr hdecode)
  rw [hstep, hx, andThen_next]
  exact (devicePart_frame t).imp fun d => Exists.imp fun wire h => congrArg Host.Outcome.next h

/-- A phase that queues frames and moves on: one ready step queues them, as many as there are send them. -/
theorem run_queueingPhase {s : State} {i : Instr} {code : PhaseCode} {frames : Params → List Frame} (n : Nat) (hp : s.phase.toNat < 12)
    (hq : s.txq = []) (hi : decodePhase s.phase 0x00050#19 = .ok i)
    (hx : ∀ u : State, exec i u = .next (goto code (enqueue (frames u.params) u))) (hcode : code.toNat < 12) :
    ∃ t, run ((frames s.params).length + n + 1) (withReadySteps ((frames s.params).length + n + 1) s) = run n (withReadySteps n t) ∧
      t.params = s.params ∧ t.phase = code ∧ t.txq = [] ∧ t.busTrace = s.busTrace ++ frames s.params ∧ t.adcTrace = s.adcTrace := by
  generalize hfs : frames s.params = fs
  have hexec : exec i (withReadySteps (fs.length + n) s) = .next (withReadySteps (fs.length + n) { s with txq := fs, phase := code }) := by
    rw [hx]
    simp only [goto, enqueue, withReadySteps, withInputs, hq, hfs, List.nil_append]
  obtain ⟨d, wire, hstep⟩ := step_withReadySteps_idle (fs.length + n) hp hq hi hexec
  obtain ⟨waitCnt, csN, dc, d', wire', hdrain⟩ :=
    run_withReadySteps (s := withReadySteps n { s with txq := fs, phase := code, dev := d, wire := wire }) hcode
  refine ⟨{ s with
      phase := code, busTrace := s.busTrace ++ fs, txq := [], waitCnt := waitCnt, csN := csN, dc := dc, dev := d', wire := wire' },
    ?_, rfl, rfl, rfl, rfl, rfl⟩
  rw [run_succ, hstep, andThen_next]
  exact run_withReadySteps_add (s := { s with txq := fs, phase := code, dev := d, wire := wire }) hdrain

/-- 1079 ready steps from reset queue and send the init list and the clear, and stop short of `PH_START`. -/
theorem run_startup (p : Params) (n : Nat) :
    ∃ t, run (1079 + n) (withReadySteps (1079 + n) (State.resetWith p)) = run n (withReadySteps n t) ∧
      t.params = p ∧ t.phase = phStartCode ∧ t.txq = [] ∧ t.busTrace = initFrames p ++ clearFrames p ∧ t.adcTrace = [] := by
  obtain ⟨hinit, hclear, -⟩ := frameCountsOfTheDriver p
  have hcount : 1079 + n = (initFrames p).length + ((clearFrames p).length + n + 1) + 1 := by
    rw [hinit, hclear]
    omega
  obtain ⟨s, hrun, hparams, hphase, htxq, hbus, hadc⟩ :=
    run_queueingPhase (s := State.resetWith p) (i := .phInit) (frames := initFrames) ((clearFrames p).length + n + 1)
      (Nat.zero_lt_succ _) rfl rfl (fun _ => rfl) (by decide)
  obtain ⟨t, hrun', hparams', hphase', htxq', hbus', hadc'⟩ :=
    run_queueingPhase (s := s) (i := .phClear) (frames := clearFrames) n
      (by rw [hphase]; decide) htxq (by rw [hphase]; rfl) (fun _ => rfl) (by decide)
  rw [hparams] at hrun' hparams' hbus'
  refine ⟨t, ?_, hparams', hphase', htxq', ?_, hadc'.trans hadc⟩
  · rw [hcount, ← hrun']
    exact hrun
  · rw [hbus', hbus]
    rfl

/-! ### The screen after the start-up -/

/-- While the init list lasts, commands only count (20_memory.md R60). -/
theorem Device.feed_initCommands (origin : BitVec 7) {bs : List Byte} {d : Device} (h : d.initCount + bs.length ≤ initLen) :
    d.feed origin (bs.map cmdFrame) = .ok { d with initCount := d.initCount + bs.length } := by
  induction bs generalizing d with
  | nil => rfl
  | cons b bs ih =>
    rw [List.length_cons] at h
    have hcount : d.initCount < initLen := by omega
    rw [List.map_cons, Device.feed_cons ((Device.consume_cmdFrame ..).trans (Device.command_init b hcount)),
      ih (d := { d with initCount := d.initCount + 1 }) (by simp only; omega), List.length_cons]
    simp only [Nat.add_assoc, Nat.add_comm 1]

theorem Device.feed_initFrames (p : Params) {d : Device} (h : d.initCount = 0) :
    d.feed p.colOrigin (initFrames p) = .ok { d with initCount := initLen } := by
  have hframes : initFrames p = ((List.range initLen).map (initRead p)).map cmdFrame := (List.map_map ..).symm
  rw [hframes, Device.feed_initCommands p.colOrigin (by simp [h])]
  simp [h]

/-- The frames of the start-up leave the display past its init list and every byte of it 0. -/
theorem Device.feed_startupFrames {p : Params} {d d' : Device} (hd : d.initCount = 0)
    (h : d.feed p.colOrigin (initFrames p ++ clearFrames p) = .ok d') :
    d'.initCount = initLen ∧ ∀ (q : Page) (y : Column), d'.pixelColumn q y = 0#8 := by
  obtain ⟨d₁, hfeed, hcount, -, -, hzero⟩ := clearZeroesTheScreen p { d with initCount := initLen } le_rfl
  rw [Device.feed_append_ok (Device.feed_initFrames p hd), hfeed] at h
  cases h
  exact ⟨hcount, hzero⟩

/-- Settles O60: `run_startup` up to `PH_START`, one step more, and the display by `DisplayInv`, which says it took every frame sent. -/
theorem startupReachesTheFirstConversion : Obligations.StartupReachesTheFirstConversion := by
  intro p
  obtain ⟨s, hrun, -, -, -, -, hadc⟩ := run_startup p 0
  obtain ⟨t, hrun', hparams, hphase, htxq, hbus, hadc'⟩ := run_startup p 1
  obtain ⟨hstart, -⟩ := analogPhasesStartPassAndCompute
  obtain ⟨d, wire, hstep⟩ := step_withReadySteps_idle 0 (by rw [hphase]; decide) htxq (by rw [hphase]; rfl) (hstart _)
  rw [run_succ 0, hstep, andThen_next, run_zero] at hrun'
  obtain ⟨hwire, hfed, -⟩ :=
    displayInv_run (s := withReadySteps 1080 (State.resetWith p)) rfl (displayInv_resetWith p) hrun'
  obtain ⟨hcount, hzero⟩ := Device.feed_startupFrames rfl (hbus ▸ hparams ▸ hfed)
  exact ⟨⟨s, hrun, hadc⟩, _, hrun', congrArg (· ++ [()]) hadc', rfl, htxq, hbus, hwire, hcount, hzero⟩

end Sys2Proof.Machine
end
